-- ==== Sys2Proof/Word.lean ====
section
/-! DEFINITION. Words: the byte, the 11-bit request word, and what the host can present to CORE in one
transaction (spec/30_encoding.md R49, R56, R59). -/

namespace Sys2Proof

/-- A wire symbol, payload byte or buffer cell: 8 bits (00_scope.md R6, R8). -/
abbrev Byte := BitVec 8

/-- The request word REQ = (op[10:8], data[7:0]) (30_encoding.md R56). -/
abbrev ReqWord := BitVec 11

/-- What the host presents to CORE in one transaction. -/
inductive Input where
  /-- A request word together with the bytes on the side-band (30_encoding.md R56, R59).  Only ENC_START takes
  a side-band operand. -/
  | request (word : ReqWord) (sideBand : List Byte)
  /-- One inbound wire symbol, presented to DEC as it stands on the wire (30_encoding.md R49).
  DESIGN CHOICE, log 12. -/
  | wire (symbol : Byte)
deriving DecidableEq, Repr

/-- Why a request is refused (30_encoding.md R63, 60_exceptions.md R119). -/
inductive RefuseReason where
  /-- R63 (a): op = 0b011 or op = 0b111.  Raised by RESERVED_011 and RESERVED_111. -/
  | reservedOp
  /-- R63 (b): an op without a data operand whose data field is not 0.  Raised by the request decoder. -/
  | nonZeroData
  /-- R63 (c): ENC_START with a payload longer than MAX_PAYLOAD_LEN.  Raised by ENC_START. -/
  | payloadTooLong
deriving DecidableEq, Repr

end Sys2Proof
end

