-- ==== Sys2Proof/Syntax.lean ====
section
/-! DEFINITION. Syntax: one constructor per row of spec/opcode_table.json. -/

namespace Sys2Proof

/-- What CORE can be asked to do: the six requests and two reserved ops of 30_encoding.md R57, and the seven wire
symbols of R49 to R53, which DEC ingests. -/
inductive Instr where
  /-- DEC_INGEST b (R86). -/
  | decIngest (b : Byte)
  /-- DEC_EOI (R101). -/
  | decEoi
  /-- DEC_RESET (R85). -/
  | decReset
  /-- ENC_START with its side-band payload p (R75). -/
  | encStart (p : List Byte)
  /-- ENC_PULL (R76). -/
  | encPull
  /-- DET_CLASSIFY b (R71). -/
  | detClassify (b : Byte)
  /-- RESERVED_011: op 0b011 with any data (R63 (a)). -/
  | reserved011 (data : Byte)
  /-- RESERVED_111: op 0b111 with any data (R63 (a)). -/
  | reserved111 (data : Byte)
  /-- WIRE_START: the symbol 0x02 (R50). -/
  | wireStart
  /-- WIRE_END: the symbol 0x03 (R50). -/
  | wireEnd
  /-- WIRE_ESCAPE: the symbol 0x04 (R51). -/
  | wireEscape
  /-- WIRE_ESC2_START: the symbol 0xFD (R51). -/
  | wireEsc2Start
  /-- WIRE_ESC2_END: the symbol 0xFC (R51). -/
  | wireEsc2End
  /-- WIRE_ESC2_ESCAPE: the symbol 0xFB (R51). -/
  | wireEsc2Escape
  /-- WIRE_DATA d: any symbol that is none of the six above (R53). -/
  | wireData (d : Byte)
deriving DecidableEq, Repr

end Sys2Proof
end

