-- ==== Sys2Proof/WellFormed.lean ====
section
/-! DEFINITION. Well-formedness of instructions: what the opcode table admits as an instance of a row. -/

namespace Sys2Proof

/-- The six symbols that have a row of their own in the opcode table, before WIRE_DATA, "lowest priority, matches
only if no row above matches". -/
def ownRowSymbols : List Byte := [0x02, 0x03, 0x04, 0xFD, 0xFC, 0xFB]

/-- WIRE_DATA stands for a symbol that has no row of its own. -/
def dataSymbolOk (d : Byte) : Bool := !ownRowSymbols.contains d

/-- The one check there is: every other operand may take every value of its type (30_encoding.md R58, R59; a payload
longer than MAX_PAYLOAD_LEN is well formed and refused by its meaning, R75). -/
def Instr.wf : Instr → Bool
  | .wireData d => dataSymbolOk d
  | .decIngest _ | .decEoi | .decReset | .encStart _ | .encPull | .detClassify _ => true
  | .reserved011 _ | .reserved111 _ => true
  | .wireStart | .wireEnd | .wireEscape | .wireEsc2Start | .wireEsc2End | .wireEsc2Escape => true

end Sys2Proof
end

