-- ==== Sys2Proof/Decode.lean ====
section
/-! DEFINITION. Decoding and encoding: spec/30_encoding.md R56 to R58, R63, R64 for request words, and the WIRE8 rows of
spec/opcode_table.json (R49 to R53) for wire symbols. -/

namespace Sys2Proof

/-- op = REQ[10:8] (R56). -/
def reqOp (w : ReqWord) : BitVec 3 := w.extractLsb' 8 3

/-- data = REQ[7:0], the full 8-bit operand with no extension, scaling or sign (R56, R58). -/
def reqData (w : ReqWord) : Byte := w.extractLsb' 0 8

/-- REQ as the concatenation of op (high bits) and data (R56). -/
def packReq (op : BitVec 3) (data : Byte) : ReqWord := op ++ data

/-- An op without a data operand: its data field must be 0, else the request is refused with NonZeroData (R58,
R63 (b)). -/
def withoutData (data : Byte) (i : Instr) : Except RefuseReason Instr :=
  if data = 0 then .ok i else .error .nonZeroData

/-- The request decoder of R64.  The side-band is read by ENC_START alone (R59, log 13).  The reserved ops 0b011 and
0b111 are instructions here, whose meanings refuse (R63 (a), log 19). -/
def decodeRequest (w : ReqWord) (sideBand : List Byte) : Except RefuseReason Instr :=
  match (reqOp w).toNat with
  | 0 => .ok (.decIngest (reqData w))
  | 1 => withoutData (reqData w) .decEoi
  | 2 => withoutData (reqData w) .decReset
  | 3 => .ok (.reserved011 (reqData w))
  | 4 => withoutData (reqData w) (.encStart sideBand)
  | 5 => withoutData (reqData w) .encPull
  | 6 => .ok (.detClassify (reqData w))
  | _ => .ok (.reserved111 (reqData w))

/-- The WIRE8 rows of the opcode table, in the order it lists them (R49 to R53). -/
def decodeWire (b : Byte) : Instr :=
  if b = 0x02 then .wireStart
  else if b = 0x03 then .wireEnd
  else if b = 0x04 then .wireEscape
  else if b = 0xFD then .wireEsc2Start
  else if b = 0xFC then .wireEsc2End
  else if b = 0xFB then .wireEsc2Escape
  else .wireData b

/-- The decoder, total on everything the host can present: an instruction, or a refusal by name. -/
def decode : Input → Except RefuseReason Instr
  | .request w p => decodeRequest w p
  | .wire b => .ok (decodeWire b)

/-- The encoder: what the host presents for an instruction (R57, R59, R49 to R51). -/
def encode : Instr → Input
  | .decIngest b => .request (packReq 0b000 b) []
  | .decEoi => .request (packReq 0b001 0) []
  | .decReset => .request (packReq 0b010 0) []
  | .encStart p => .request (packReq 0b100 0) p
  | .encPull => .request (packReq 0b101 0) []
  | .detClassify b => .request (packReq 0b110 b) []
  | .reserved011 d => .request (packReq 0b011 d) []
  | .reserved111 d => .request (packReq 0b111 d) []
  | .wireStart => .wire 0x02
  | .wireEnd => .wire 0x03
  | .wireEscape => .wire 0x04
  | .wireEsc2Start => .wire 0xFD
  | .wireEsc2End => .wire 0xFC
  | .wireEsc2Escape => .wire 0xFB
  | .wireData d => .wire d

/-- The transaction whose bits are `w`, numbered as the opcode table numbers them: up to 8 bits are a wire symbol, up
to two bytes an 11-bit request word with nothing on the side-band.  Bits the format does not have must be 0
(log 22). -/
def tableInput (nbits w : Nat) : Option Input :=
  if nbits ≤ 8 then (if w < 256 then some (.wire (BitVec.ofNat 8 w)) else none)
  else if nbits ≤ 16 then (if w < 2048 then some (.request (BitVec.ofNat 11 w) []) else none)
  else none

/-- The instruction the decoder reads from the bits `w` of an opcode-table row of `nbits` bits. -/
def decodeTableWord (nbits w : Nat) : Option Instr :=
  match tableInput nbits w with
  | none => none
  | some inp =>
    match decode inp with
    | .ok i => some i
    | .error _ => none

end Sys2Proof
end

