-- ==== Sys2Proof/Config.lean ====
section
/-! DEFINITION. Configuration: the OPEN parameters of spec/00_scope.md R6 and spec/93_implementation_defined.md P1 to
P5.  An opaque constant has no value any proof can see. -/

namespace Sys2Proof

/-- CAPACITY of the instance that comes out of reset: any natural number (R6, P1).  Free: log 7. -/
opaque Config.capacity : Nat

/-- MAX_PAYLOAD_LEN of the instance that comes out of reset: `none` is unbounded, the default R6 and P3 give (log 8).
Every operation takes the bound from the state, so a claim about every state holds for every bound. -/
def Config.maxPayloadLen : Option Nat := none

/-- The byte BUF[i] holds after power-on: any value (10_state.md R30, 70_reset_and_hazards.md R120, U2).  Free:
log 9. -/
opaque Config.powerOnByte : Nat → Byte

/-- BUF_BASE, where BUF sits in a surrounding system's address map (20_memory.md R43, P5).  No rule reads it. -/
opaque Config.bufBase : Nat

/-- PAY_BASE, where PAY sits if it is memory-mapped (20_memory.md R43, P5).  No rule reads it. -/
opaque Config.payBase : Nat

end Sys2Proof
end

