-- ==== Sys2Proof/Machine/State.lean ====
section
/-! DEFINITION. The state of CORE (spec/10_state.md) as plain data, the reasons a step can stop, and the state after
power-on reset (spec/70_reset_and_hazards.md R120). -/

namespace Sys2Proof.Machine

/-- DEC_STATE (10_state.md R14, R17; its bits are `DecState.toBits`, log 17). -/
inductive DecState where
  /-- 0b00, W. -/
  | waitingForStart
  /-- 0b01, M. -/
  | insideMessage
  /-- 0b10, E. -/
  | insideMessageEscaping
  /-- 0b11: illegal, and a fault for every DEC request (R17). -/
  | illegal
deriving DecidableEq, Repr

/-- ENC_PHASE (10_state.md R19; its bits are `EncPhase.toBits`, log 17). -/
inductive EncPhase where
  /-- 0b00. -/
  | begin
  /-- 0b01. -/
  | encoding
  /-- 0b10. -/
  | escapedCharacter
  /-- 0b11. -/
  | done
deriving DecidableEq, Repr

/-- The outcome of a request (30_encoding.md R61; its number is `RespCode.toBits`). -/
inductive RespCode where
  /-- 0 OK: ENC_START, DEC_RESET. -/
  | ok
  /-- 1 CONTINUE: DEC_INGEST. -/
  | cont
  /-- 2 MESSAGE_READY: DEC_INGEST. -/
  | messageReady
  /-- 3 INVALID_ESCAPE: DEC_INGEST. -/
  | invalidEscape
  /-- 4 BUFFER_TOO_SMALL: DEC_INGEST. -/
  | bufferTooSmall
  /-- 5 END_OF_INPUT: DEC_EOI. -/
  | endOfInput
  /-- 6 EMIT: ENC_PULL. -/
  | emit
  /-- 7 FINISHED: ENC_PULL. -/
  | finished
  /-- 8 CLASS: DET_CLASSIFY. -/
  | classified
deriving DecidableEq, Repr

/-- The response RESP, field by field (30_encoding.md R60; packed by `Resp.pack`). -/
structure Resp where
  code : RespCode
  data : Byte
  len : Nat
deriving DecidableEq, Repr

/-- What the last request gave back.  The model's own: log 3. -/
inductive Answer where
  /-- No response: none since reset, or the request ended in a model fault. -/
  | noResponse
  /-- The request was performed and responded (R60). -/
  | response (r : Resp)
  /-- The request was refused: no response (R63). -/
  | refused (why : RefuseReason)
deriving DecidableEq, Repr

/-- The model faults of 60_exceptions.md R119.  The operation that meets one sets the `faulted` mark, and `step` stops
with that reason in every state that holds the mark (log 5). -/
inductive Fault where
  /-- DEC_STATE = 0b11 (10_state.md R17).  Raised by every DEC request and wire symbol.  Safe: the machine stops, and
  no run from reset reaches it. -/
  | illegalDecoderState
  /-- A read of PAY at an index that does not exist (20_memory.md R35).  Raised by ENC_PULL in phase Encoding.  Safe:
  the machine stops, and no run from reset reaches it. -/
  | payloadIndexOutOfRange
  /-- A write of BUF at an index ≥ CAPACITY (20_memory.md R37).  Raised by the BUF write.  Safe: the machine stops, and
  the callers check the capacity first. -/
  | bufferIndexOutOfRange
deriving DecidableEq, Repr

/-- Reasons to refuse to give a next state.  The spec's own refusals (R63) are no such reason: they have an effect, the
`refused` mark, and the machine goes on (log 4). -/
inductive Refusal where
  /-- An instruction the model has no meaning for: raised by `exec` for an arm not written yet.  Safe.  No arm of this
  model raises it. -/
  | notModelled (mnemonic : String)
deriving DecidableEq, Repr

/-- A byte memory: (index, byte) pairs with strictly rising indices (`Memory.wf`).  An index not listed does not exist:
BUF lists exactly the indices below CAPACITY (20_memory.md R36), PAY exactly those below ENC_LEN (log 9). -/
abbrev Memory := List Host.Cell

/-- The parameters of an instance, fixed when it is built (00_scope.md R6, 70_reset_and_hazards.md R124).  No
instruction writes them (log 7). -/
structure Params where
  /-- CAPACITY, the size of BUF in bytes. -/
  capacity : Nat
  /-- MAX_PAYLOAD_LEN; `none` is unbounded. -/
  maxPayloadLen : Option Nat
deriving DecidableEq, Repr

/-- Everything CORE holds between requests (10_state.md R13), the two marks of R29, and the model's own `params`,
`answer`, `window` and `script` (log 1, 3, 7, 11). -/
structure State where
  /-- The instance's parameters. -/
  params : Params
  /-- DEC_STATE (R14). -/
  decState : DecState
  /-- DEC_CURSOR (R15). -/
  decCursor : Nat
  /-- BUF, the message buffer: CAPACITY bytes (R16). -/
  buf : Memory
  /-- ENC_PHASE (R19). -/
  encPhase : EncPhase
  /-- ENC_CURSOR (R20). -/
  encCursor : Nat
  /-- ENC_LEN (R21). -/
  encLen : Nat
  /-- ENC_PEND (R22). -/
  encPend : Byte
  /-- PAY, the captured payload (R23). -/
  pay : Memory
  /-- The `refused` mark (R29). -/
  refused : Bool
  /-- The `faulted` mark (R29), with the reason of the fault. -/
  faulted : Option Fault
  /-- What the last request gave back (log 3). -/
  answer : Answer
  /-- The host may rely on BUF[0, window) (70_reset_and_hazards.md R125; log 11). -/
  window : Nat
  /-- The requests the host has still to issue, the next one first (log 1). -/
  script : List Input
deriving DecidableEq, Repr

/-- BUF after power-on: CAPACITY bytes, whatever they are (20_memory.md R36, 10_state.md R30). -/
def Memory.powerOn (capacity : Nat) (fill : Nat → Byte) : Memory := (List.range capacity).map (fun i => (i, fill i))

/-- Power-on reset (70_reset_and_hazards.md R120, 10_state.md R30) of an instance with the parameters `prm`, where
BUF[i] comes up as `fill i`.  ENC_PEND is unspecified there (log 10). -/
def State.resetOf (prm : Params) (fill : Nat → Byte) : State where
  params := prm
  decState := .waitingForStart
  decCursor := 0
  buf := Memory.powerOn prm.capacity fill
  encPhase := .done
  encCursor := 0
  encLen := 0
  encPend := 0x00
  pay := []
  refused := false
  faulted := none
  answer := .noResponse
  window := 0
  script := []

/-- Power-on reset, with CAPACITY and the bytes of BUF free (log 7, log 9). -/
def State.reset : State :=
  State.resetOf { capacity := Config.capacity, maxPayloadLen := Config.maxPayloadLen } Config.powerOnByte

end Sys2Proof.Machine
end

