-- ==== Sys2Proof/Machine/Ops.lean ====
section
/-! DEFINITION. The shared operations: the two memories (spec/20_memory.md), the response, the refusal and the fault
(spec/00_scope.md R9), and the one form of exception CORE has, raise, with its recovery (spec/60_exceptions.md R108). -/

namespace Sys2Proof.Machine

/-! ### Byte memories -/

/-- The canonical form: indices strictly rising, so that equal memories are equal lists. -/
abbrev Memory.wf (m : Memory) : Prop := m.Pairwise (fun c d => c.1 < d.1)

/-- The byte at an index; `none` where the index does not exist (log 9). -/
def Memory.read : Memory → Nat → Option Byte
  | [], _ => none
  | c :: m, a => if c.1 = a then some c.2 else Memory.read m a

/-- Put a byte at an index, keeping the indices rising. -/
def Memory.write : Memory → Nat → Byte → Memory
  | [], a, v => [(a, v)]
  | c :: m, a, v =>
    if a < c.1 then (a, v) :: c :: m
    else if a = c.1 then (a, v) :: m
    else c :: Memory.write m a v

/-- The memory that holds a byte sequence from an index on. -/
def Memory.ofBytesFrom : Nat → List Byte → Memory
  | _, [] => []
  | base, b :: bs => (base, b) :: Memory.ofBytesFrom (base + 1) bs

/-- The memory that holds a byte sequence from index 0 on: PAY[i] = p[i] (10_state.md R23). -/
def Memory.ofBytes (bs : List Byte) : Memory := Memory.ofBytesFrom 0 bs

/-- MemRead(PAY, i, 1), defined only for 0 ≤ i < ENC_LEN (20_memory.md R35).  An index below ENC_LEN at which PAY holds
no byte faults in the same way (log 15). -/
def memReadPay (i : Nat) (s : State) : Except Fault Byte :=
  if i < s.encLen then
    match s.pay.read i with
    | some b => .ok b
    | none => .error .payloadIndexOutOfRange
  else .error .payloadIndexOutOfRange

/-- MemWrite(BUF, i, 1, v), defined only for 0 ≤ i < CAPACITY (20_memory.md R37). -/
def memWriteBuf (i : Nat) (v : Byte) (s : State) : Except Fault State :=
  if i < s.params.capacity then .ok { s with buf := s.buf.write i v }
  else .error .bufferIndexOutOfRange

/-- The byte BUF[i] the machine holds: one at every index below CAPACITY, written by DEC_INGEST or there since power-on
(20_memory.md R36, log 9). -/
def readBuf (s : State) (i : Nat) : Option Byte := s.buf.read i

/-- A read of BUF by the host between requests (20_memory.md R38).  Outside the delivered slice of the present window
the byte is any value to the host: `none` (R39, 70_reset_and_hazards.md R125; log 11). -/
def hostRead (s : State) (i : Nat) : Option Byte := if i < s.window then readBuf s i else none

/-- The message the host reads after a MESSAGE_READY: BUF[0, window). -/
def hostMessage (s : State) : List (Option Byte) := (List.range s.window).map (hostRead s)

/-! ### How a request ends -/

/-- respond(code, data, len): set the response of the present request (00_scope.md R9, 30_encoding.md R60). -/
def respond (code : RespCode) (data : Byte) (len : Nat) (s : State) : State :=
  { s with answer := .response { code := code, data := data, len := len } }

/-- refuse(reason): the `refused` mark is set, nothing else of CORE changes, there is no response (00_scope.md R9,
10_state.md R29, 30_encoding.md R63; log 4). -/
def refuse (why : RefuseReason) (s : State) : State :=
  { s with refused := true, answer := .refused why }

/-- fault(reason): the `faulted` mark is set and the request ends with no response (00_scope.md R9, 10_state.md R29;
log 5, log 6). -/
def raiseFault (why : Fault) (s : State) : State :=
  { s with faulted := some why, answer := .noResponse }

/-- recover: DEC_CURSOR <- 0, DEC_STATE <- WaitingForStart, BUF unchanged (60_exceptions.md R108). -/
def recover (s : State) : State :=
  { s with decCursor := 0, decState := .waitingForStart }

/-- raise InvalidEscape, raise BufferTooSmall: the recovery, then the code as response (00_scope.md R9,
60_exceptions.md R106 to R108).  CORE has no other exception, and nothing is returned from (R110, R112). -/
def raiseOutcome (code : RespCode) (s : State) : State := respond code 0 0 (recover s)

/-- The host's window on the last delivered slice ends with its next DEC_INGEST (70_reset_and_hazards.md R125;
log 11). -/
def closeWindow (s : State) : State := { s with window := 0 }

/-- `if DEC_STATE == 0b11 then fault(IllegalDecoderState)`, checked before every DEC request (10_state.md R17,
60_exceptions.md R111; log 16). -/
def withLegalDecoder (body : State → State) (s : State) : State :=
  if s.decState = .illegal then raiseFault .illegalDecoderState s else body s

end Sys2Proof.Machine
end

