-- ==== Sys2Proof/Machine/Detector.lean ====
section
/-! DEFINITION. DET, the frame-delimiter detector and escape transform (spec/40_detector.md), and DET_CLASSIFY. -/

namespace Sys2Proof.Machine

/-- START (00_scope.md R6, 30_encoding.md R50; log 21). -/
def startByte : Byte := 0x02
/-- END (R6, R50; log 21). -/
def endByte : Byte := 0x03
/-- ESCAPE (R6, R50; log 21). -/
def escapeByte : Byte := 0x04
/-- MASK, the escape complement mask (R6; log 21). -/
def complementMask : Byte := 0xFF

/-- The class of a wire symbol (30_encoding.md R49). -/
inductive ByteClass where
  | other
  | start
  | finish
  | escape
deriving DecidableEq, Repr

/-- classify(b) (40_detector.md R67). -/
def classify (b : Byte) : ByteClass :=
  if b = startByte then .start
  else if b = endByte then .finish
  else if b = escapeByte then .escape
  else .other

/-- is_control(b) (R68). -/
def isControl (b : Byte) : Bool := classify b != .other

/-- comp(b) = b XOR 0xFF (R69). -/
def comp (b : Byte) : Byte := b ^^^ complementMask

/-- esc_valid(b): b is the second byte of a legal escape (R70). -/
def escValid (b : Byte) : Bool := isControl (comp b)

/-- The class codes of 30_encoding.md R62, as the data byte of a CLASS response. -/
def ByteClass.code : ByteClass → Byte
  | .other => 0
  | .start => 1
  | .finish => 2
  | .escape => 3

/-- DET_CLASSIFY (R71): it reads and writes no state but the response. -/
def execDetClassify (b : Byte) (s : State) : Host.Outcome State Fault Refusal :=
  .next (respond .classified (classify b).code 0 s)

end Sys2Proof.Machine
end

