-- ==== Sys2Proof/Machine/Operands.lean ====
section
/-! DEFINITION. Operand forms: the byte operand, the side-band payload, the PAY operand at ENC_CURSOR and the BUF
operand at DEC_CURSOR (spec/30_encoding.md R58, R59; spec/20_memory.md R35, R37). -/

namespace Sys2Proof.Machine

/-- The byte an instruction carries to DEC: the data field of DEC_INGEST (R58), or the wire symbol itself (R49 to R51);
`none` for every other instruction. -/
def carriedByte : Instr → Option Byte
  | .decIngest b => some b
  | .wireStart => some 0x02
  | .wireEnd => some 0x03
  | .wireEscape => some 0x04
  | .wireEsc2Start => some 0xFD
  | .wireEsc2End => some 0xFC
  | .wireEsc2Escape => some 0xFB
  | .wireData d => some d
  | .decEoi | .decReset | .encStart _ | .encPull | .detClassify _ | .reserved011 _ | .reserved111 _ => none

/-- The side-band payload is admitted: |p| ≤ MAX_PAYLOAD_LEN (R59, 41_encoder.md R75). -/
def payloadFits (p : List Byte) (s : State) : Bool :=
  match s.params.maxPayloadLen with
  | none => true
  | some m => decide (p.length ≤ m)

/-- The first byte of `remaining`: MemRead(PAY, ENC_CURSOR, 1) (41_encoder.md R76). -/
def payOperand (s : State) : Except Fault Byte := memReadPay s.encCursor s

/-- There is room for one more byte: DEC_CURSOR < CAPACITY (42_decoder.md R86). -/
def bufHasRoom (s : State) : Bool := decide (s.decCursor < s.params.capacity)

/-- Where a byte that DEC writes goes: index DEC_CURSOR (R93, R98). -/
def bufOperand (s : State) : Nat := s.decCursor

/-- MemWrite(BUF, DEC_CURSOR, 1, v); DEC_CURSOR <- DEC_CURSOR + 1; DEC_STATE <- InsideMessage (R93, R98); a model fault
where the index does not exist (20_memory.md R37). -/
def storeByte (v : Byte) (s : State) : State :=
  match memWriteBuf (bufOperand s) v s with
  | .ok t => respond .cont 0 0 { t with decCursor := s.decCursor + 1, decState := .insideMessage }
  | .error r => raiseFault r s

end Sys2Proof.Machine
end

