-- ==== Sys2Proof/Machine/Flags.lean ====
section
/-! DEFINITION. Status indications.  CORE has no flags (spec/10_state.md R25): there are the response with its codes and
packing (spec/30_encoding.md R60 to R62), the encoder's pending-byte flag, and the bit encodings of the two state
registers (R14, R19). -/

namespace Sys2Proof.Machine

/-- The pending-byte flag is the condition ENC_PHASE == EscapedCharacter (10_state.md R22, R25). -/
def pendingFlag (s : State) : Bool := s.encPhase = .escapedCharacter

/-- The bits of DEC_STATE (R14, R17). -/
def DecState.toBits : DecState → BitVec 2
  | .waitingForStart => 0b00
  | .insideMessage => 0b01
  | .insideMessageEscaping => 0b10
  | .illegal => 0b11

/-- The state that two bits stand for (R14, R17). -/
def DecState.ofBits (v : BitVec 2) : DecState :=
  if v = 0b00 then .waitingForStart
  else if v = 0b01 then .insideMessage
  else if v = 0b10 then .insideMessageEscaping
  else .illegal

/-- The bits of ENC_PHASE (R19). -/
def EncPhase.toBits : EncPhase → BitVec 2
  | .begin => 0b00
  | .encoding => 0b01
  | .escapedCharacter => 0b10
  | .done => 0b11

/-- The phase that two bits stand for (R19). -/
def EncPhase.ofBits (v : BitVec 2) : EncPhase :=
  if v = 0b00 then .begin
  else if v = 0b01 then .encoding
  else if v = 0b10 then .escapedCharacter
  else .done

/-- The response codes of 30_encoding.md R61; 9 to 15 are never produced. -/
def RespCode.toBits : RespCode → BitVec 4
  | .ok => 0
  | .cont => 1
  | .messageReady => 2
  | .invalidEscape => 3
  | .bufferTooSmall => 4
  | .endOfInput => 5
  | .emit => 6
  | .finished => 7
  | .classified => 8

/-- The groups of 60_exceptions.md R105. -/
inductive OutcomeGroup where
  | normal
  | delivery
  | framingError
  | channelCondition
deriving DecidableEq, Repr

/-- The group of a response code (R105). -/
def RespCode.group : RespCode → OutcomeGroup
  | .ok | .cont | .emit | .finished | .classified => .normal
  | .messageReady => .delivery
  | .invalidEscape | .bufferTooSmall => .framingError
  | .endOfInput => .channelCondition

/-- LEN_BITS: the least n ≥ 1 with 2^n > CAPACITY (00_scope.md R6). -/
def lenBits (capacity : Nat) : Nat := Nat.log2 capacity + 1

/-- RESP packed as (len, data, code) with the code in the low bits (30_encoding.md R60). -/
def Resp.pack (capacity : Nat) (r : Resp) : BitVec (lenBits capacity + 8 + 4) :=
  BitVec.ofNat (lenBits capacity) r.len ++ r.data ++ r.code.toBits

end Sys2Proof.Machine
end

