-- ==== Sys2Proof/Machine/Encoder.lean ====
section
/-! DEFINITION. ENC, the escape-encoder: ENC_START and ENC_PULL (spec/41_encoder.md). -/

namespace Sys2Proof.Machine

/-- ENC_START (R75): capture the payload and begin a new sequence, in every phase. -/
def encStart (p : List Byte) (s : State) : State :=
  if payloadFits p s then
    respond .ok 0 0
      { s with pay := Memory.ofBytes p, encLen := p.length, encCursor := 0, encPhase := .begin }
  else refuse .payloadTooLong s

/-- R77: emit START. -/
def pullBegin (s : State) : State := respond .emit startByte 0 { s with encPhase := .encoding }

/-- R78: emit END and terminate. -/
def pullEnd (s : State) : State := respond .emit endByte 0 { s with encPhase := .done }

/-- R79: at a control byte, emit ESCAPE and hold the byte. -/
def pullEscape (b : Byte) (s : State) : State :=
  respond .emit escapeByte 0
    { s with encPend := b, encCursor := s.encCursor + 1, encPhase := .escapedCharacter }

/-- R80: at an ordinary byte, emit it verbatim. -/
def pullVerbatim (b : Byte) (s : State) : State :=
  respond .emit b 0 { s with encCursor := s.encCursor + 1 }

/-- R81: emit the complement of the held byte. -/
def pullComplement (s : State) : State :=
  respond .emit (comp s.encPend) 0 { s with encPhase := .encoding }

/-- R82: the sequence has finished. -/
def pullDone (s : State) : State := respond .finished 0 0 s

/-- Phase Encoding (R76): END when nothing remains, else the first byte of `remaining`. -/
def pullEncoding (s : State) : State :=
  if s.encCursor = s.encLen then pullEnd s
  else
    match payOperand s with
    | .ok b => if isControl b then pullEscape b s else pullVerbatim b s
    | .error r => raiseFault r s

/-- ENC_PULL (R76): exactly one of R77 to R82, by the phase. -/
def encPull (s : State) : State :=
  match s.encPhase with
  | .begin => pullBegin s
  | .encoding => pullEncoding s
  | .escapedCharacter => pullComplement s
  | .done => pullDone s

/-- The meaning of ENC_START (R75). -/
def execEncStart (p : List Byte) (s : State) : Host.Outcome State Fault Refusal := .next (encStart p s)

/-- The meaning of ENC_PULL (R76). -/
def execEncPull (s : State) : Host.Outcome State Fault Refusal := .next (encPull s)

end Sys2Proof.Machine
end

