-- ==== Sys2Proof/Machine/Reserved.lean ====
section
/-! DEFINITION. The reserved ops 0b011 and 0b111: refused with ReservedOp (spec/30_encoding.md R63 (a); log 4,
log 19). -/

namespace Sys2Proof.Machine

/-- op 0b011, whatever its data field: the `refused` mark is set, nothing else of CORE changes, no response. -/
def execReserved011 (_data : Byte) (s : State) : Host.Outcome State Fault Refusal := .next (refuse .reservedOp s)

/-- op 0b111, whatever its data field: the `refused` mark is set, nothing else of CORE changes, no response. -/
def execReserved111 (_data : Byte) (s : State) : Host.Outcome State Fault Refusal := .next (refuse .reservedOp s)

end Sys2Proof.Machine
end

