-- ==== Sys2Proof/Machine/Decoder.lean ====
section
/-! DEFINITION. DEC, the incremental escape-decoder: DEC_RESET, DEC_INGEST and DEC_EOI (spec/42_decoder.md). -/

namespace Sys2Proof.Machine

/-- The cells in the START column: reset the cursor and enter InsideMessage (R88, R90, R95). -/
def ingestStart (s : State) : State :=
  respond .cont 0 0 { s with decCursor := 0, decState := .insideMessage }

/-- R89: noise. -/
def ingestNoise (s : State) : State := respond .cont 0 0 s

/-- R91: deliver BUF[0, DEC_CURSOR).  The host may read that slice until its next DEC_INGEST
(70_reset_and_hazards.md R125). -/
def ingestEnd (s : State) : State :=
  respond .messageReady 0 s.decCursor
    { s with decCursor := 0, decState := .waitingForStart, window := s.decCursor }

/-- R92: begin an escape. -/
def ingestEscape (s : State) : State := respond .cont 0 0 { s with decState := .insideMessageEscaping }

/-- Write one de-escaped byte where there is room, else BufferTooSmall (R93, R94, R98, R99). -/
def ingestData (v : Byte) (s : State) : State :=
  if bufHasRoom s then storeByte v s else raiseOutcome .bufferTooSmall s

/-- InsideMessageEscaping with an OTHER byte: escape validity before capacity (R98 to R100, 60_exceptions.md R111). -/
def ingestEscaped (b : Byte) (s : State) : State :=
  if isControl (comp b) then ingestData (comp b) s else raiseOutcome .invalidEscape s

/-- The transition table (R86), for a legal DEC_STATE. -/
def ingestCell (b : Byte) (s : State) : State :=
  match s.decState with
  | .waitingForStart =>
    match classify b with
    | .start => ingestStart s
    | .finish | .escape | .other => ingestNoise s
  | .insideMessage =>
    match classify b with
    | .start => ingestStart s
    | .finish => ingestEnd s
    | .escape => ingestEscape s
    | .other => ingestData b s
  | .insideMessageEscaping =>
    match classify b with
    | .start => ingestStart s
    | .finish => raiseOutcome .invalidEscape s
    | .escape => raiseOutcome .invalidEscape s
    | .other => ingestEscaped b s
  | .illegal => raiseFault .illegalDecoderState s

/-- DEC ingests one inbound byte (R86).  It closes the window of an earlier delivery (70_reset_and_hazards.md R125,
log 11). -/
def ingest (b : Byte) (s : State) : State :=
  withLegalDecoder (fun s => ingestCell b (closeWindow s)) s

/-- DEC_RESET (R85): BUF is unchanged, a partial message is dropped silently. -/
def decReset (s : State) : State := withLegalDecoder (fun s => respond .ok 0 0 (recover s)) s

/-- DEC_EOI (R101): DEC_STATE, DEC_CURSOR and BUF unchanged. -/
def decEoi (s : State) : State := withLegalDecoder (fun s => respond .endOfInput 0 0 s) s

/-- The meaning of DEC_INGEST (R86). -/
def execDecIngest (b : Byte) (s : State) : Host.Outcome State Fault Refusal := .next (ingest b s)

/-- The meaning of DEC_EOI (R101). -/
def execDecEoi (s : State) : Host.Outcome State Fault Refusal := .next (decEoi s)

/-- The meaning of DEC_RESET (R85). -/
def execDecReset (s : State) : Host.Outcome State Fault Refusal := .next (decReset s)

end Sys2Proof.Machine
end

