-- ==== Sys2Proof/Machine/Wire.lean ====
section
/-! DEFINITION. The wire symbols as instructions: each is one inbound byte, which DEC ingests in its present state
(spec/30_encoding.md R49 to R53, spec/42_decoder.md R88 to R100; log 12). -/

namespace Sys2Proof.Machine

/-- The symbol START, 0x02: R88, R90, R95. -/
def execWireStart (s : State) : Host.Outcome State Fault Refusal := .next (ingest 0x02 s)

/-- The symbol END, 0x03: R89, R91, R96. -/
def execWireEnd (s : State) : Host.Outcome State Fault Refusal := .next (ingest 0x03 s)

/-- The symbol ESCAPE, 0x04: R89, R92, R97. -/
def execWireEscape (s : State) : Host.Outcome State Fault Refusal := .next (ingest 0x04 s)

/-- The symbol 0xFD, after ESCAPE the second byte that stands for 0x02: R98, R99; outside an escape a byte like any
other: R89, R93, R94. -/
def execWireEsc2Start (s : State) : Host.Outcome State Fault Refusal := .next (ingest 0xFD s)

/-- The symbol 0xFC, after ESCAPE the second byte that stands for 0x03: R98, R99; outside an escape R89, R93, R94. -/
def execWireEsc2End (s : State) : Host.Outcome State Fault Refusal := .next (ingest 0xFC s)

/-- The symbol 0xFB, after ESCAPE the second byte that stands for 0x04: R98, R99; outside an escape R89, R93, R94. -/
def execWireEsc2Escape (s : State) : Host.Outcome State Fault Refusal := .next (ingest 0xFB s)

/-- Any other symbol: R89, R93, R94, R100. -/
def execWireData (d : Byte) (s : State) : Host.Outcome State Fault Refusal := .next (ingest d s)

end Sys2Proof.Machine
end

