-- ==== Sys2Proof/Machine/Dispatch.lean ====
section
/-! DEFINITION. The dispatch of every instruction to its meaning. -/

namespace Sys2Proof.Machine

def exec (i : Instr) (s : State) : Host.Outcome State Fault Refusal :=
  match i with
  | .decIngest b => Sys2Proof.Machine.execDecIngest b s
  | .decEoi => Sys2Proof.Machine.execDecEoi s
  | .decReset => Sys2Proof.Machine.execDecReset s
  | .encStart p => Sys2Proof.Machine.execEncStart p s
  | .encPull => Sys2Proof.Machine.execEncPull s
  | .detClassify b => Sys2Proof.Machine.execDetClassify b s
  | .reserved011 d => Sys2Proof.Machine.execReserved011 d s
  | .reserved111 d => Sys2Proof.Machine.execReserved111 d s
  | .wireStart => Sys2Proof.Machine.execWireStart s
  | .wireEnd => Sys2Proof.Machine.execWireEnd s
  | .wireEscape => Sys2Proof.Machine.execWireEscape s
  | .wireEsc2Start => Sys2Proof.Machine.execWireEsc2Start s
  | .wireEsc2End => Sys2Proof.Machine.execWireEsc2End s
  | .wireEsc2Escape => Sys2Proof.Machine.execWireEsc2Escape s
  | .wireData d => Sys2Proof.Machine.execWireData d s

end Sys2Proof.Machine
end

