-- ==== Sys2Proof/Machine/Step.lean ====
section
/-! DEFINITION. One step: the host's next request is taken, decoded and performed (spec/00_scope.md R7,
spec/30_encoding.md R63, R64). -/

namespace Sys2Proof.Machine

/-- One transaction.  A state with the `faulted` mark stops (log 5); with no request waiting CORE idles
(60_exceptions.md R118, log 24); a request the decoder refuses sets the `refused` mark (R63, log 4). -/
def step (s : State) : Host.Outcome State Fault Refusal :=
  match s.faulted with
  | some r => .fault r
  | none =>
    match s.script with
    | [] => .next s
    | inp :: rest =>
      match decode inp with
      | .ok i => exec i { s with script := rest }
      | .error why => .next (refuse why { s with script := rest })

/-- The host issues the instruction whose opcode-table bits are `w` as its next request (log 2, log 22). -/
def State.withFetchWord (s : State) (nbits w : Nat) : State :=
  match tableInput nbits w with
  | some inp => { s with script := inp :: s.script }
  | none => s

end Sys2Proof.Machine
end

