-- ==== Sys2Proof/Machine/Frame.lean ====
section
/-! DEFINITION. The wire format: the image of a payload byte and the frame of a payload (spec/30_encoding.md R51 to
R55).  No instruction calls these: claims about ENC and DEC are stated with them. -/

namespace Sys2Proof.Machine

/-- e(x), the wire image of one payload byte (R52). -/
def wireImage (x : Byte) : List Byte := if isControl x then [escapeByte, comp x] else [x]

/-- e(p0), …, e(pn−1): what stands between the delimiters (R53). -/
def wireBody : List Byte → List Byte
  | [] => []
  | x :: p => wireImage x ++ wireBody p

/-- The frame START, e(p0), …, e(pn−1), END (R53). -/
def frame (p : List Byte) : List Byte := startByte :: (wireBody p ++ [endByte])

/-- k, the number of control bytes in a payload (R53). -/
def controlCount (p : List Byte) : Nat := p.countP isControl

/-- What R53 says of the bytes between a frame's delimiters: no START and no END, and every ESCAPE is followed by the
complement of a control byte, which is no ESCAPE of its own. -/
def bodyShaped : List Byte → Bool
  | [] => true
  | [b] => !isControl b
  | b :: c :: r =>
    if b = escapeByte then escValid c && bodyShaped r else !isControl b && bodyShaped (c :: r)

end Sys2Proof.Machine
end

