-- ==== Sys2Proof/Machine/Run.lean ====
section
/-! DEFINITION. Sequences of requests as the host issues them, with the answer to each (spec/70_reset_and_hazards.md
R130, R134).  Claims about streams of requests are stated with these. -/

namespace Sys2Proof.Machine

/-- The host issues one request now, ahead of whatever its script still holds. -/
def issue (inp : Input) (s : State) : Host.Outcome State Fault Refusal :=
  step { s with script := inp :: s.script }

/-- The host issues requests one after the other: each request with its answer, and the state after the last one; a
stop where a step stops. -/
def issueAll : List Input → State → Host.Outcome (List (Input × Answer) × State) Fault Refusal
  | [], s => .next ([], s)
  | inp :: rest, s =>
    match issue inp s with
    | .next t =>
      match issueAll rest t with
      | .next (log, u) => .next ((inp, t.answer) :: log, u)
      | .fault r => .fault r
      | .refused r => .refused r
    | .fault r => .fault r
    | .refused r => .refused r

/-- DEC_INGEST requests for a sequence of bytes, in order: the pseudo-instruction `feed` (30_encoding.md R66). -/
def feed (bs : List Byte) : List Input := bs.map (fun b => encode (.decIngest b))

/-- ENC_PULL n times: the pseudo-instruction `drain n` (R66). -/
def drain (n : Nat) : List Input := List.replicate n (encode .encPull)

/-- The byte a request carries to DEC, if it carries one. -/
def inboundByte (inp : Input) : Option Byte :=
  match decode inp with
  | .ok i => carriedByte i
  | .error _ => none

/-- The inbound stream: the bytes that successive requests carry to DEC (20_memory.md R33). -/
def inboundBytes (reqs : List Input) : List Byte := reqs.filterMap inboundByte

/-- The answers alone. -/
def answersOf (log : List (Input × Answer)) : List Answer := log.map Prod.snd

/-- The answer of an emitted byte, EMIT b (30_encoding.md R61). -/
def emitted (b : Byte) : Answer := .response { code := .emit, data := b, len := 0 }

/-- The answer CONTINUE. -/
def continued : Answer := .response { code := .cont, data := 0, len := 0 }

/-- The answer MESSAGE_READY with a length. -/
def delivered (len : Nat) : Answer := .response { code := .messageReady, data := 0, len := len }

/-- The answer FINISHED. -/
def finishedAnswer : Answer := .response { code := .finished, data := 0, len := 0 }

/-- The answer OK. -/
def okAnswer : Answer := .response { code := .ok, data := 0, len := 0 }

/-- The answer END_OF_INPUT. -/
def endOfInputAnswer : Answer := .response { code := .endOfInput, data := 0, len := 0 }

/-- The answer INVALID_ESCAPE. -/
def invalidEscapeAnswer : Answer := .response { code := .invalidEscape, data := 0, len := 0 }

/-- The answer BUFFER_TOO_SMALL. -/
def bufferTooSmallAnswer : Answer := .response { code := .bufferTooSmall, data := 0, len := 0 }

end Sys2Proof.Machine
end

