-- ==== Sys2Proof/Machine/Assembly.lean ====
section
/-! DEFINITION. The spec's assembly syntax and pseudo-instructions (spec/30_encoding.md R65, R66; log 23). -/

namespace Sys2Proof.Machine

/-- A mnemonic with its operands (R65). -/
inductive Asm where
  | ingest (b : Byte)
  | eoi
  | dreset
  | estart (p : List Byte)
  | pull
  | classify (b : Byte)
deriving DecidableEq, Repr

/-- The instruction a mnemonic stands for (R65). -/
def Asm.instr : Asm → Instr
  | .ingest b => .decIngest b
  | .eoi => .decEoi
  | .dreset => .decReset
  | .estart p => .encStart p
  | .pull => .encPull
  | .classify b => .detClassify b

/-- The request word, with its side-band (R65). -/
def Asm.input (a : Asm) : Input := encode a.instr

/-- `feed [b0, …, bm]` (R66). -/
def Asm.feed (bs : List Byte) : List Asm := bs.map .ingest

/-- `sendframe [p…]`: feed the wire image of p (R66). -/
def Asm.sendframe (p : List Byte) : List Asm := Asm.feed (frame p)

/-- `drain n`: pull n times (R66). -/
def Asm.drain (n : Nat) : List Asm := List.replicate n .pull

/-- `encode [p…]`: estart p, then drain (|p| + k + 3) (R66). -/
def Asm.encode (p : List Byte) : List Asm := .estart p :: Asm.drain (p.length + controlCount p + 3)

/-- A hexadecimal digit. -/
def hexDigit (n : Nat) : Char := if n < 10 then Char.ofNat (48 + n) else Char.ofNat (55 + n)

/-- The value of a hexadecimal digit, in either case of the letter. -/
def hexValue (c : Char) : Option Nat :=
  let n := c.toNat
  if 48 ≤ n ∧ n ≤ 57 then some (n - 48)
  else if 65 ≤ n ∧ n ≤ 70 then some (n - 55)
  else if 97 ≤ n ∧ n ≤ 102 then some (n - 87)
  else none

/-- A byte operand 0xNN (R65). -/
def byteText (b : Byte) : List Char := ['0', 'x', hexDigit (b.toNat / 16), hexDigit (b.toNat % 16)]

/-- What follows the first byte of a payload operand. -/
def payloadTail : List Byte → List Char
  | [] => [']']
  | b :: p => ',' :: ' ' :: (byteText b ++ payloadTail p)

/-- A payload operand [0xNN, …]; [] is the empty payload (R65). -/
def payloadText : List Byte → List Char
  | [] => ['[', ']']
  | b :: p => '[' :: (byteText b ++ payloadTail p)

/-- A line of assembly (R65). -/
def Asm.text : Asm → List Char
  | .ingest b => ['i', 'n', 'g', 'e', 's', 't', ' '] ++ byteText b
  | .eoi => ['e', 'o', 'i']
  | .dreset => ['d', 'r', 'e', 's', 'e', 't']
  | .estart p => ['e', 's', 't', 'a', 'r', 't', ' '] ++ payloadText p
  | .pull => ['p', 'u', 'l', 'l']
  | .classify b => ['c', 'l', 'a', 's', 's', 'i', 'f', 'y', ' '] ++ byteText b

/-- A byte from its two hexadecimal digits. -/
def hexByte (h l : Char) : Option Byte :=
  match hexValue h, hexValue l with
  | some a, some c => some (BitVec.ofNat 8 (16 * a + c))
  | _, _ => none

/-- Read a byte operand that is the whole text. -/
def parseByte : List Char → Option Byte
  | ['0', 'x', h, l] => hexByte h l
  | _ => none

/-- Read what follows the first byte of a payload operand. -/
def parseTail : List Char → Option (List Byte)
  | [']'] => some []
  | ',' :: ' ' :: '0' :: 'x' :: h :: l :: rest =>
    match hexByte h l, parseTail rest with
    | some b, some p => some (b :: p)
    | _, _ => none
  | _ => none

/-- Read a payload operand. -/
def parsePayload : List Char → Option (List Byte)
  | ['[', ']'] => some []
  | '[' :: '0' :: 'x' :: h :: l :: rest =>
    match hexByte h l, parseTail rest with
    | some b, some p => some (b :: p)
    | _, _ => none
  | _ => none

/-- Drop a comment, which `;` starts, and the blanks around what is left (R65). -/
def stripLine (cs : List Char) : List Char :=
  (((cs.takeWhile (· != ';')).dropWhile (· == ' ')).reverse.dropWhile (· == ' ')).reverse

/-- Read a mnemonic with its operand, between no blanks. -/
def parseBare : List Char → Option Asm
  | ['e', 'o', 'i'] => some .eoi
  | ['d', 'r', 'e', 's', 'e', 't'] => some .dreset
  | ['p', 'u', 'l', 'l'] => some .pull
  | 'i' :: 'n' :: 'g' :: 'e' :: 's' :: 't' :: ' ' :: rest => (parseByte rest).map .ingest
  | 'c' :: 'l' :: 'a' :: 's' :: 's' :: 'i' :: 'f' :: 'y' :: ' ' :: rest => (parseByte rest).map .classify
  | 'e' :: 's' :: 't' :: 'a' :: 'r' :: 't' :: ' ' :: rest => (parsePayload rest).map .estart
  | _ => none

/-- Read one line of assembly: one request (R65). -/
def Asm.parse (line : List Char) : Option Asm := parseBare (stripLine line)

end Sys2Proof.Machine
end

