-- ==== Sys2Proof/Machine/System.lean ====
section
/-! DEFINITION. Several CORE instances side by side (spec/60_exceptions.md R116; log 20). -/

namespace Sys2Proof.Machine

/-- A system of N_CORE instances, N_CORE being the length of the list (00_scope.md R6). -/
abbrev System := List State

/-- A step of the k-th instance; the others are as they were.  An instance that does not exist takes no step. -/
def systemStep (k : Nat) (sys : System) : Host.Outcome System Fault Refusal :=
  match sys[k]? with
  | none => .next sys
  | some s =>
    match step s with
    | .next t => .next (sys.set k t)
    | .fault r => .fault r
    | .refused r => .refused r

end Sys2Proof.Machine
end

