-- ==== Sys2Proof/Safety.lean ====
section
/-! DEFINITION. What counts as a successful end of a run (spec/70_reset_and_hazards.md R134), the invariants of
spec/10_state.md R18 and R24 with the canonical form of the memories, and the parts of the state that belong to one
sub-block (R32). -/

namespace Sys2Proof.Machine

/-- Both marks are clear (R134). -/
def Successful (s : State) : Prop := s.refused = false ∧ s.faulted = none

/-- R18 (a) and (b), with DEC_STATE legal (R17), and BUF canonical with a byte at exactly the indices below
CAPACITY (20_memory.md R36, R37). -/
structure DecInv (s : State) : Prop where
  legal : s.decState ≠ .illegal
  cursor_le : s.decCursor ≤ s.params.capacity
  waiting_cursor : s.decState = .waitingForStart → s.decCursor = 0
  buf_wf : s.buf.wf
  buf_full : ∀ i, (readBuf s i).isSome ↔ i < s.params.capacity
  window_le : s.window ≤ s.params.capacity

/-- R24 (a) to (c), with PAY canonical, and ENC_LEN within MAX_PAYLOAD_LEN (10_state.md R21). -/
structure EncInv (s : State) : Prop where
  cursor_le : s.encCursor ≤ s.encLen
  pay_wf : s.pay.wf
  pay_full : ∀ i, (s.pay.read i).isSome ↔ i < s.encLen
  pending : s.encPhase = .escapedCharacter →
    1 ≤ s.encCursor ∧ s.pay.read (s.encCursor - 1) = some s.encPend ∧ isControl s.encPend = true
  begin_cursor : s.encPhase = .begin → s.encCursor = 0
  len_le : ∀ m, s.params.maxPayloadLen = some m → s.encLen ≤ m

/-- The invariant of the machine: both sub-blocks, and no model fault. -/
structure MachineInv (s : State) : Prop where
  dec : DecInv s
  enc : EncInv s
  no_fault : s.faulted = none

/-- The part of the state that belongs to DEC, with the host's window on BUF. -/
def decView (s : State) : DecState × Nat × Memory × Nat := (s.decState, s.decCursor, s.buf, s.window)

/-- The part of the state that belongs to ENC. -/
def encView (s : State) : EncPhase × Nat × Nat × Byte × Memory :=
  (s.encPhase, s.encCursor, s.encLen, s.encPend, s.pay)

/-- The byte DEC writes at `bufOperand s` when it ingests `b`: `none` where the transition table calls for no write or
there is no room (42_decoder.md R93, R98). -/
def storedByte (b : Byte) (s : State) : Option Byte :=
  match s.decState with
  | .insideMessage => if isControl b = false ∧ bufHasRoom s then some b else none
  | .insideMessageEscaping => if escValid b ∧ bufHasRoom s then some (comp b) else none
  | .waitingForStart | .illegal => none

/-- Requests to DEC: DEC_INGEST, the wire symbols, DEC_EOI, DEC_RESET. -/
def isDecInstr : Instr → Bool
  | .decIngest _ | .decEoi | .decReset => true
  | .wireStart | .wireEnd | .wireEscape | .wireEsc2Start | .wireEsc2End | .wireEsc2Escape | .wireData _ => true
  | .encStart _ | .encPull | .detClassify _ | .reserved011 _ | .reserved111 _ => false

/-- Requests to ENC: ENC_START, ENC_PULL. -/
def isEncInstr : Instr → Bool
  | .encStart _ | .encPull => true
  | .decIngest _ | .decEoi | .decReset | .detClassify _ | .reserved011 _ | .reserved111 _ => false
  | .wireStart | .wireEnd | .wireEscape | .wireEsc2Start | .wireEsc2End | .wireEsc2Escape | .wireData _ => false

/-- What the host presents is a request to DEC. -/
def isDecInput (inp : Input) : Bool :=
  match decode inp with
  | .ok i => isDecInstr i
  | .error _ => false

/-- What the host presents is a request to ENC. -/
def isEncInput (inp : Input) : Bool :=
  match decode inp with
  | .ok i => isEncInstr i
  | .error _ => false

end Sys2Proof.Machine
end

