-- ==== Sys2Proof/Certificates/Slice0/Obligations.lean ====
section
/-! DEFINITION. The statements about CORE that are to be proved.  Each docstring names the rule of spec/ it formalises.
The fields `answer` (where the response stands, log 3), `window` (log 11) and `script` (log 1) of State are the model's
own; where a statement rests on a choice of the model its docstring names the log entry. -/

open Sys2Proof Sys2Proof.Machine

/-! ### Encoding -/

/-- One word per row of the opcode table and the ill-formed ones of 95_test_vectors.md 2.1, each written out bit by
bit from the encodings of 30_encoding.md R50, R51, R57. -/
def Obligations.WrittenOutWordsDecode : Prop :=
  decode (.request 0b000_01000001#11 []) = .ok (.decIngest 0b01000001) ∧
  decode (.request 0b001_00000000#11 []) = .ok .decEoi ∧
  decode (.request 0b010_00000000#11 []) = .ok .decReset ∧
  decode (.request 0b011_10100101#11 []) = .ok (.reserved011 0b10100101) ∧
  decode (.request 0b100_00000000#11 [0x02]) = .ok (.encStart [0x02]) ∧
  decode (.request 0b101_00000000#11 []) = .ok .encPull ∧
  decode (.request 0b110_11111111#11 []) = .ok (.detClassify 0b11111111) ∧
  decode (.request 0b111_00000000#11 []) = .ok (.reserved111 0) ∧
  decode (.request 0b001_00000001#11 []) = .error .nonZeroData ∧
  decode (.request 0b010_11111111#11 []) = .error .nonZeroData ∧
  decode (.request 0b100_00000001#11 []) = .error .nonZeroData ∧
  decode (.request 0b101_10000000#11 []) = .error .nonZeroData ∧
  decode (.wire 0b00000010) = .ok .wireStart ∧
  decode (.wire 0b00000011) = .ok .wireEnd ∧
  decode (.wire 0b00000100) = .ok .wireEscape ∧
  decode (.wire 0b11111101) = .ok .wireEsc2Start ∧
  decode (.wire 0b11111100) = .ok .wireEsc2End ∧
  decode (.wire 0b11111011) = .ok .wireEsc2Escape ∧
  decode (.wire 0b01000001) = .ok (.wireData 0b01000001)

/-- Decoding what the encoder writes for a well-formed instruction gives the instruction, with every operand at every
value (30_encoding.md R49 to R59). -/
def Obligations.DecodeOfEncodeIsTheInstruction : Prop :=
  ∀ i : Instr, i.wf = true → decode (encode i) = .ok i

/-- Every word has one meaning: what decodes to an instruction is the word the encoder writes for it, a side-band that
the op does not take apart (log 13), and a wire symbol decodes to a well-formed instruction. -/
def Obligations.EncodeOfDecodeIsTheWord : Prop :=
  (∀ (w : ReqWord) (p : List Byte) (i : Instr), decode (.request w p) = .ok i →
    i.wf = true ∧ (encode i = .request w p ∨ encode i = .request w [])) ∧
  (∀ (w : ReqWord) (p q : List Byte), decode (.request w p) = .ok (.encStart q) → q = p) ∧
  (∀ (b : Byte) (i : Instr), decode (.wire b) = .ok i → i.wf = true ∧ encode i = .wire b)

/-- 30_encoding.md R64: the request decoder, op by op, total on all 2^11 words, of which it admits 516.  The reserved
ops decode to instructions whose meaning refuses (log 19, log 4). -/
def Obligations.RequestDecoderFollowsTheOpTable : Prop :=
  (∀ w : ReqWord, ∃ op d, w = packReq op d) ∧
  (∀ (d : Byte) (p : List Byte),
    decode (.request (packReq 0b000 d) p) = .ok (.decIngest d) ∧
    decode (.request (packReq 0b110 d) p) = .ok (.detClassify d) ∧
    decode (.request (packReq 0b001 d) p) = (if d = 0 then .ok .decEoi else .error .nonZeroData) ∧
    decode (.request (packReq 0b010 d) p) = (if d = 0 then .ok .decReset else .error .nonZeroData) ∧
    decode (.request (packReq 0b100 d) p) = (if d = 0 then .ok (.encStart p) else .error .nonZeroData) ∧
    decode (.request (packReq 0b101 d) p) = (if d = 0 then .ok .encPull else .error .nonZeroData) ∧
    decode (.request (packReq 0b011 d) p) = .ok (.reserved011 d) ∧
    decode (.request (packReq 0b111 d) p) = .ok (.reserved111 d)) ∧
  (∀ (d : Byte) (s : State),
    exec (.reserved011 d) s = .next { s with refused := true, answer := .refused .reservedOp } ∧
    exec (.reserved111 d) s = .next { s with refused := true, answer := .refused .reservedOp }) ∧
  ((List.range 2048).filter (fun n =>
    match decode (.request (BitVec.ofNat 11 n) []) with
    | .ok (.reserved011 _) | .ok (.reserved111 _) | .error _ => false
    | .ok _ => true)).length = 516

/-- 30_encoding.md R63: a refused request sets the `refused` mark, changes no other state of CORE and gives no
response.  That the model goes on after it, in a state that holds the mark, is log 4. -/
def Obligations.RefusedRequestsSetTheMarkAlone : Prop :=
  (∀ (d : Byte) (s : State),
    exec (.reserved011 d) s = .next { s with refused := true, answer := .refused .reservedOp } ∧
    exec (.reserved111 d) s = .next { s with refused := true, answer := .refused .reservedOp }) ∧
  ∀ (s : State) (d : Byte) (p : List Byte), s.faulted = none →
    (∀ op ∈ [0b011#3, 0b111#3],
      issue (.request (packReq op d) p) s = .next { s with refused := true, answer := .refused .reservedOp }) ∧
    (∀ op ∈ [0b001#3, 0b010#3, 0b100#3, 0b101#3], d ≠ 0 →
      issue (.request (packReq op d) p) s = .next { s with refused := true, answer := .refused .nonZeroData }) ∧
    (∀ m, s.params.maxPayloadLen = some m → m < p.length →
      issue (.request (packReq 0b100 0) p) s = .next { s with refused := true, answer := .refused .payloadTooLong })

/-! ### The detector -/

/-- 40_detector.md R67, R68. -/
def Obligations.ClassifyNamesTheControlBytes : Prop :=
  ∀ b : Byte,
    (classify b = .start ↔ b = 0x02) ∧ (classify b = .finish ↔ b = 0x03) ∧ (classify b = .escape ↔ b = 0x04) ∧
    (classify b = .other ↔ b ≠ 0x02 ∧ b ≠ 0x03 ∧ b ≠ 0x04) ∧
    (isControl b = true ↔ classify b ≠ .other) ∧
    (isControl b = true ↔ b = 0x02 ∨ b = 0x03 ∨ b = 0x04)

/-- 40_detector.md R70 and the table of R74; 30_encoding.md R54. -/
def Obligations.EscapeSecondBytesAreTheThreeComplements : Prop :=
  (∀ b : Byte,
    (isControl b = true ↔ b = 0x02 ∨ b = 0x03 ∨ b = 0x04) ∧
    (escValid b = true ↔ isControl (comp b) = true) ∧
    (escValid b = true ↔ b = 0xFB ∨ b = 0xFC ∨ b = 0xFD) ∧
    (isControl b = true → isControl (comp b) = false ∧ escValid b = false) ∧
    (comp b).toNat = 0xFF - b.toNat) ∧
  comp 0x02 = 0xFD ∧ comp 0x03 = 0xFC ∧ comp 0x04 = 0xFB ∧
  comp 0xFB = 0x04 ∧ comp 0xFC = 0x03 ∧ comp 0xFD = 0x02 ∧ comp 0x00 = 0xFF ∧ comp 0x01 = 0xFE ∧
  (∀ b : Byte,
    classify b = (if b = 0x02 then .start else if b = 0x03 then .finish else if b = 0x04 then .escape else .other))

/-- 40_detector.md R69: the complement bit by bit, its own inverse, without a fixed point. -/
def Obligations.ComplementIsAnInvolutionWithoutFixedPoint : Prop :=
  ∀ b : Byte, comp b = b ^^^ 0xFF ∧ (∀ i < 8, (comp b).getLsbD i = !b.getLsbD i) ∧ comp (comp b) = b ∧ comp b ≠ b

/-- 40_detector.md R71, with the class codes of 30_encoding.md R62: the response, and no other state. -/
def Obligations.DetClassifyAnswersTheClassCode : Prop :=
  ∀ (b : Byte) (s : State),
    exec (.detClassify b) s = .next { s with
      answer := .response
        { code := .classified
          data := if b = 0x02 then 1 else if b = 0x03 then 2 else if b = 0x04 then 3 else 0
          len := 0 } }

/-! ### The encoder -/

/-- 41_encoder.md R75: ENC_START in every phase, and its one refusal (the shape of which is log 4). -/
def Obligations.EncStartBeginsANewSequence : Prop :=
  ∀ (p : List Byte) (s : State),
    ((∀ m, s.params.maxPayloadLen = some m → p.length ≤ m) →
      exec (.encStart p) s = .next { s with
        pay := Memory.ofBytes p, encLen := p.length, encCursor := 0, encPhase := .begin, answer := okAnswer }) ∧
    (∀ m, s.params.maxPayloadLen = some m → m < p.length →
      exec (.encStart p) s = .next { s with refused := true, answer := .refused .payloadTooLong })

/-- 20_memory.md R34: PAY is the captured payload, byte for byte, and no other request changes it. -/
def Obligations.PayloadIsCapturedAndKept : Prop :=
  (∀ (p : List Byte) (s t : State), (∀ m, s.params.maxPayloadLen = some m → p.length ≤ m) →
    exec (.encStart p) s = .next t → t.encLen = p.length ∧ ∀ i, t.pay.read i = p[i]?) ∧
  (∀ (i : Instr) (s t : State), (∀ p, i ≠ .encStart p) → exec i s = .next t →
    t.pay = s.pay ∧ t.encLen = s.encLen)

/-- 41_encoder.md R77. -/
def Obligations.PullInBeginEmitsStart : Prop :=
  ∀ s : State, s.encPhase = .begin →
    exec .encPull s = .next { s with encPhase := .encoding, answer := emitted 0x02 }

/-- 41_encoder.md R78. -/
def Obligations.PullWithNothingRemainingEmitsEnd : Prop :=
  ∀ s : State, s.encPhase = .encoding → s.encCursor = s.encLen →
    exec .encPull s = .next { s with encPhase := .done, answer := emitted 0x03 }

/-- 41_encoder.md R79. -/
def Obligations.PullAtControlByteEmitsEscape : Prop :=
  ∀ (s : State) (b : Byte), s.encPhase = .encoding → s.encCursor < s.encLen →
    s.pay.read s.encCursor = some b → (b = 0x02 ∨ b = 0x03 ∨ b = 0x04) →
    exec .encPull s = .next { s with
      encPend := b, encCursor := s.encCursor + 1, encPhase := .escapedCharacter, answer := emitted 0x04 }

/-- 41_encoder.md R80. -/
def Obligations.PullAtOrdinaryByteEmitsItVerbatim : Prop :=
  ∀ (s : State) (b : Byte), s.encPhase = .encoding → s.encCursor < s.encLen →
    s.pay.read s.encCursor = some b → b ≠ 0x02 → b ≠ 0x03 → b ≠ 0x04 →
    exec .encPull s = .next { s with encCursor := s.encCursor + 1, answer := emitted b }

/-- 41_encoder.md R81. -/
def Obligations.PullAfterEscapeEmitsTheComplement : Prop :=
  ∀ s : State, s.encPhase = .escapedCharacter →
    exec .encPull s = .next { s with encPhase := .encoding, answer := emitted (0xFF ^^^ s.encPend) }

/-- 41_encoder.md R82. -/
def Obligations.PullWhenDoneAnswersFinished : Prop :=
  ∀ s : State, s.encPhase = .done →
    exec .encPull s = .next { s with answer := finishedAnswer }

/-- 20_memory.md R35: MemRead(PAY, i, 1), and the one place where a request meets its fault, which no state that keeps
the invariant does.  An index below ENC_LEN without a byte is log 15, the shape of the fault state log 5 and 6. -/
def Obligations.PayloadReadOutsideItsRangeFaults : Prop :=
  (∀ (s : State) (i : Nat) (b : Byte), i < s.encLen → s.pay.read i = some b → memReadPay i s = .ok b) ∧
  (∀ (s : State) (i : Nat), s.encLen ≤ i → memReadPay i s = .error .payloadIndexOutOfRange) ∧
  (∀ s : State, s.encPhase = .encoding → s.encLen < s.encCursor →
    exec .encPull s = .next { s with faulted := some .payloadIndexOutOfRange, answer := .noResponse }) ∧
  (∀ s t : State, EncInv s → exec .encPull s = .next t → t.faulted = s.faulted)

/-- The frame of the two requests to ENC: ENC_PULL writes only ENC_PHASE, ENC_CURSOR and ENC_PEND (41_encoder.md
R84 (a)) and the fault mark; ENC_START only ENC_PHASE, ENC_CURSOR, ENC_LEN and PAY (R75) and the refused mark; neither
touches a byte of BUF or any other state of DEC (10_state.md R32). -/
def Obligations.EncoderRequestsChangeOnlyTheEncoder : Prop :=
  (∀ s t : State, exec .encPull s = .next t →
    t = { s with
      encPhase := t.encPhase, encCursor := t.encCursor, encPend := t.encPend,
      faulted := t.faulted, answer := t.answer } ∧
    ∀ a, readBuf t a = readBuf s a) ∧
  (∀ (p : List Byte) (s t : State), exec (.encStart p) s = .next t →
    t = { s with
      encPhase := t.encPhase, encCursor := t.encCursor, encLen := t.encLen, pay := t.pay,
      refused := t.refused, answer := t.answer } ∧
    ∀ a, readBuf t a = readBuf s a)

/-- 41_encoder.md R83: from every state, ENC_START p and then pulls emit exactly the frame of p, |p| + k + 2 bytes, and
every later pull gives FINISHED; what stands between the delimiters is shaped as R53 says. -/
def Obligations.PullsEmitExactlyTheFrame : Prop :=
  ∀ (p : List Byte) (n : Nat) (s : State), s.faulted = none →
    (∀ m, s.params.maxPayloadLen = some m → p.length ≤ m) →
    ∃ log t,
      issueAll (encode (.encStart p) :: drain (p.length + controlCount p + 2 + n)) s = .next (log, t) ∧
      answersOf log = okAnswer :: ((frame p).map emitted ++ List.replicate n finishedAnswer) ∧
      frame p = 0x02 :: (wireBody p ++ [0x03]) ∧ bodyShaped (wireBody p) = true ∧
      t.encPhase = .done ∧ t.decState = s.decState ∧ t.decCursor = s.decCursor ∧ t.buf = s.buf

/-- 30_encoding.md R53: the frame's delimiters, its length n + k + 2, and what stands between the delimiters. -/
def Obligations.FrameHasItsShapeAndLength : Prop :=
  (∀ p : List Byte,
    frame p = 0x02 :: (wireBody p ++ [0x03]) ∧
    (frame p).length = p.length + controlCount p + 2 ∧
    bodyShaped (wireBody p) = true ∧
    0x02 ∉ wireBody p ∧ 0x03 ∉ wireBody p ∧
    (∀ k : Nat, (wireBody p)[k]? = some 0x04 →
      ∃ c, (wireBody p)[k + 1]? = some c ∧ (c = 0xFB ∨ c = 0xFC ∨ c = 0xFD))) ∧
  frame [] = [0x02, 0x03]

/-- The wire code is unambiguous (30_encoding.md R52, R54): a stream that begins with a frame begins with one frame
only. -/
def Obligations.FramesAreUniquelyReadable : Prop :=
  ∀ p q u v : List Byte, frame p ++ u = frame q ++ v → p = q ∧ u = v

/-! ### The decoder, cell by cell.  What is left of the host's window (log 11) is left open in each of them. -/

/-- 42_decoder.md R85.  The shape of the fault state is log 5 and 6. -/
def Obligations.DecResetReturnsToWaitingForStart : Prop :=
  ∀ s : State,
    (s.decState ≠ .illegal →
      exec .decReset s = .next { s with decState := .waitingForStart, decCursor := 0, answer := okAnswer }) ∧
    (s.decState = .illegal →
      exec .decReset s = .next { s with faulted := some .illegalDecoderState, answer := .noResponse })

/-- 42_decoder.md R88, R90, R95. -/
def Obligations.StartAlwaysResynchronises : Prop :=
  ∀ s : State, s.decState ≠ .illegal →
    ∃ w, exec (.decIngest 0x02) s = .next { s with
      decCursor := 0, decState := .insideMessage, answer := continued, window := w }

/-- 42_decoder.md R89. -/
def Obligations.NoiseOutsideAFrameIsIgnored : Prop :=
  ∀ (b : Byte) (s : State), b ≠ 0x02 → s.decState = .waitingForStart →
    ∃ w, exec (.decIngest b) s = .next { s with answer := continued, window := w }

/-- 42_decoder.md R91, and that a message is delivered in no other place: END as a wire symbol (log 12) is END. -/
def Obligations.EndInsideAMessageDeliversIt : Prop :=
  (∀ s : State, s.decState = .insideMessage →
    ∃ w, exec (.decIngest 0x03) s = .next { s with
      decCursor := 0, decState := .waitingForStart, answer := delivered s.decCursor, window := w }) ∧
  (∀ (i : Instr) (s t : State) (len : Nat), exec i s = .next t → t.answer = delivered len →
    carriedByte i = some 0x03 ∧ s.decState = .insideMessage ∧ len = s.decCursor)

/-- 42_decoder.md R92. -/
def Obligations.EscapeInsideAMessageBeginsAnEscape : Prop :=
  ∀ s : State, s.decState = .insideMessage →
    ∃ w, exec (.decIngest 0x04) s = .next { s with
      decState := .insideMessageEscaping, answer := continued, window := w }

/-- 42_decoder.md R93. -/
def Obligations.DataByteWithRoomIsWrittenAtTheCursor : Prop :=
  ∀ (b : Byte) (s : State), b ≠ 0x02 → b ≠ 0x03 → b ≠ 0x04 →
    s.decState = .insideMessage → s.decCursor < s.params.capacity →
    ∃ w t, exec (.decIngest b) s = .next t ∧
      t = { s with buf := t.buf, decCursor := s.decCursor + 1, answer := continued, window := w } ∧
      readBuf t s.decCursor = some b ∧ ∀ a, a ≠ s.decCursor → readBuf t a = readBuf s a

/-- 42_decoder.md R94. -/
def Obligations.DataByteAtAFullBufferDropsTheFrame : Prop :=
  ∀ (b : Byte) (s : State), b ≠ 0x02 → b ≠ 0x03 → b ≠ 0x04 →
    s.decState = .insideMessage → s.decCursor = s.params.capacity →
    ∃ w, exec (.decIngest b) s = .next { s with
      decCursor := 0, decState := .waitingForStart, answer := bufferTooSmallAnswer, window := w }

/-- 42_decoder.md R96, R97, R100: whatever the cursor. -/
def Obligations.MalformedEscapeDropsTheFrame : Prop :=
  ∀ (b : Byte) (s : State), s.decState = .insideMessageEscaping →
    b ≠ 0x02 → b ≠ 0xFB → b ≠ 0xFC → b ≠ 0xFD →
    ∃ w, exec (.decIngest b) s = .next { s with
      decCursor := 0, decState := .waitingForStart, answer := invalidEscapeAnswer, window := w }

/-- 42_decoder.md R98. -/
def Obligations.ValidEscapeWithRoomWritesTheOriginalByte : Prop :=
  ∀ (b : Byte) (s : State), s.decState = .insideMessageEscaping →
    (b = 0xFB ∨ b = 0xFC ∨ b = 0xFD) → s.decCursor < s.params.capacity →
    ∃ w t, exec (.decIngest b) s = .next t ∧
      t = { s with
        buf := t.buf, decCursor := s.decCursor + 1, decState := .insideMessage, answer := continued, window := w } ∧
      readBuf t s.decCursor = some (b ^^^ 0xFF) ∧ ∀ a, a ≠ s.decCursor → readBuf t a = readBuf s a

/-- 42_decoder.md R99. -/
def Obligations.ValidEscapeAtAFullBufferDropsTheFrame : Prop :=
  ∀ (b : Byte) (s : State), s.decState = .insideMessageEscaping →
    (b = 0xFB ∨ b = 0xFC ∨ b = 0xFD) → s.decCursor = s.params.capacity →
    ∃ w, exec (.decIngest b) s = .next { s with
      decCursor := 0, decState := .waitingForStart, answer := bufferTooSmallAnswer, window := w }

/-- 42_decoder.md R101.  The shape of the fault state is log 5 and 6. -/
def Obligations.EndOfInputKeepsTheDecoderState : Prop :=
  ∀ s : State,
    (s.decState ≠ .illegal → exec .decEoi s = .next { s with answer := endOfInputAnswer }) ∧
    (s.decState = .illegal →
      exec .decEoi s = .next { s with faulted := some .illegalDecoderState, answer := .noResponse })

/-- The model's choice (log 12): each of the seven wire symbols, as an instruction, is ingested by the transition table
of 42_decoder.md R86, as DEC_INGEST ingests its byte.  A cursor above CAPACITY, which no run reaches, counts as full
(log 14). -/
def Obligations.WireSymbolsFollowTheTransitionTable : Prop :=
  (∀ (b : Byte) (s : State),
    exec (decodeWire b) s = exec (.decIngest b) s ∧ carriedByte (decodeWire b) = some b) ∧
  (∀ s : State, s.decState ≠ .illegal →
    ∃ w, exec .wireStart s = .next { s with
      decCursor := 0, decState := .insideMessage, answer := continued, window := w }) ∧
  ∀ (i : Instr) (b : Byte) (s : State), carriedByte i = some b → b ≠ 0x02 →
    (s.decState = .waitingForStart →
      ∃ w, exec i s = .next { s with answer := continued, window := w }) ∧
    (s.decState = .insideMessage → i = .wireEnd →
      ∃ w, exec i s = .next { s with
        decCursor := 0, decState := .waitingForStart, answer := delivered s.decCursor, window := w }) ∧
    (s.decState = .insideMessage → i = .wireEscape →
      ∃ w, exec i s = .next { s with decState := .insideMessageEscaping, answer := continued, window := w }) ∧
    (s.decState = .insideMessage → b ≠ 0x03 → b ≠ 0x04 →
      ∃ w, exec i s = .next (if s.decCursor < s.params.capacity then
        { s with buf := s.buf.write s.decCursor b, decCursor := s.decCursor + 1, answer := continued, window := w }
      else
        { s with decCursor := 0, decState := .waitingForStart, answer := bufferTooSmallAnswer, window := w })) ∧
    (s.decState = .insideMessageEscaping → (b = 0xFB ∨ b = 0xFC ∨ b = 0xFD) →
      ∃ w, exec i s = .next (if s.decCursor < s.params.capacity then
        { s with
          buf := s.buf.write s.decCursor (b ^^^ 0xFF), decCursor := s.decCursor + 1, decState := .insideMessage,
          answer := continued, window := w }
      else
        { s with decCursor := 0, decState := .waitingForStart, answer := bufferTooSmallAnswer, window := w })) ∧
    (s.decState = .insideMessageEscaping → b ≠ 0xFB → b ≠ 0xFC → b ≠ 0xFD →
      ∃ w, exec i s = .next { s with
        decCursor := 0, decState := .waitingForStart, answer := invalidEscapeAnswer, window := w })

/-- 10_state.md R17: DEC_STATE = 0b11 faults every DEC request, no request makes it, and the machine then stops for
good.  That the fault is a state that holds the mark, from which every step stops, is log 5; what else a faulting
request does, log 6; which requests check, log 16. -/
def Obligations.IllegalDecoderStateFaultsAndStops : Prop :=
  (∀ (i : Instr) (s : State), isDecInstr i = true → s.decState = .illegal →
    exec i s = .next { s with faulted := some .illegalDecoderState, answer := .noResponse }) ∧
  (∀ (i : Instr) (s t : State), exec i s = .next t → t.decState = .illegal → s.decState = .illegal) ∧
  (∀ (s : State) (r : Fault), s.faulted = some r → step s = .fault r)

/-- The frame of the requests to DEC: only DEC_STATE, DEC_CURSOR, BUF (with the model's window, fault mark and answer)
change, and of BUF only the byte at index DEC_CURSOR, when the table calls for a write there is room for (20_memory.md
R37, R39; 10_state.md R32; wire symbols: log 12, the window: log 11). -/
def Obligations.DecoderRequestsChangeOnlyTheDecoder : Prop :=
  ∀ (i : Instr) (s t : State), isDecInstr i = true → exec i s = .next t →
    t = { s with
      decState := t.decState, decCursor := t.decCursor, buf := t.buf,
      faulted := t.faulted, answer := t.answer, window := t.window } ∧
    (∀ b v, carriedByte i = some b → storedByte b s = some v →
      readBuf t (bufOperand s) = some v ∧ ∀ a, a ≠ bufOperand s → readBuf t a = readBuf s a) ∧
    ((∀ b, carriedByte i = some b → storedByte b s = none) → ∀ a, readBuf t a = readBuf s a)

/-- 20_memory.md R39: no request clears a byte of BUF, and DEC_RESET, a START, a delivery and a recovery leave every
byte as it was (wire symbols: log 12). -/
def Obligations.NoRequestClearsTheBuffer : Prop :=
  ∀ (i : Instr) (s t : State) (a : Nat), exec i s = .next t →
    ((readBuf s a).isSome = true → (readBuf t a).isSome = true) ∧
    ((i = .decReset ∨ carriedByte i = some 0x02 ∨ (∃ len, t.answer = delivered len) ∨
        t.answer = invalidEscapeAnswer ∨ t.answer = bufferTooSmallAnswer) →
      readBuf t a = readBuf s a)

/-- 60_exceptions.md R106, R107, R108: the two framing errors come only from their cells, record nothing, and
recover (wire symbols: log 12). -/
def Obligations.FramingErrorsComeFromTheirCellsAndRecover : Prop :=
  ∀ (i : Instr) (s t : State) (r : Resp), exec i s = .next t → t.answer = .response r →
    (r.code = .invalidEscape →
      ∃ b, carriedByte i = some b ∧ s.decState = .insideMessageEscaping ∧ b ≠ 0x02 ∧ escValid b = false) ∧
    (r.code = .bufferTooSmall →
      s.params.capacity ≤ s.decCursor ∧
      ∃ b, carriedByte i = some b ∧
        ((s.decState = .insideMessage ∧ classify b = .other) ∨
          (s.decState = .insideMessageEscaping ∧ escValid b = true))) ∧
    (r.code = .invalidEscape ∨ r.code = .bufferTooSmall →
      r.data = 0 ∧ r.len = 0 ∧ t.decCursor = 0 ∧ t.decState = .waitingForStart ∧ t.buf = s.buf)

/-- 30_encoding.md R61 (and the fields of R60): which request gives which code, the codes' numbers, of which 9 to 15
are never produced, and which codes carry data or a length (wire symbols: log 12). -/
def Obligations.ResponseCodesComeFromTheirRequests : Prop :=
  (∀ (i : Instr) (s t : State) (r : Resp), exec i s = .next t → t.answer = .response r →
    (r.code = .ok → (∃ p, i = .encStart p) ∨ i = .decReset) ∧
    (r.code = .cont ∨ r.code = .messageReady ∨ r.code = .invalidEscape ∨ r.code = .bufferTooSmall →
      (carriedByte i).isSome = true) ∧
    (r.code = .endOfInput → i = .decEoi) ∧
    (r.code = .emit ∨ r.code = .finished → i = .encPull) ∧
    (r.code = .classified → ∃ b, i = .detClassify b) ∧
    (r.code ≠ .emit → r.code ≠ .classified → r.data = 0) ∧
    (r.code ≠ .messageReady → r.len = 0) ∧
    r.code.toBits.toNat ≤ 8) ∧
  RespCode.ok.toBits = 0 ∧ RespCode.cont.toBits = 1 ∧ RespCode.messageReady.toBits = 2 ∧
  RespCode.invalidEscape.toBits = 3 ∧ RespCode.bufferTooSmall.toBits = 4 ∧ RespCode.endOfInput.toBits = 5 ∧
  RespCode.emit.toBits = 6 ∧ RespCode.finished.toBits = 7 ∧ RespCode.classified.toBits = 8

/-- 42_decoder.md R87: DEC_INGEST never blocks, never refuses a byte, and gives one of its four outcomes. -/
def Obligations.IngestIsTotal : Prop :=
  ∀ (b : Byte) (s : State), s.decState ≠ .illegal →
    ∃ t r, exec (.decIngest b) s = .next t ∧ t.faulted = s.faulted ∧ t.refused = s.refused ∧
      t.answer = .response r ∧
      (r.code = .cont ∨ r.code = .messageReady ∨ r.code = .invalidEscape ∨ r.code = .bufferTooSmall)

/-! ### The decoder, streams of requests -/

/-- 10_state.md R18 (c), with (a) and (b), over every sequence of requests from a decoder that waits for START: BUF[0,
DEC_CURSOR) holds the de-escaped bytes of the frame being assembled, in arrival order, since the last START (wire
symbols: log 12; after a refused request: log 4). -/
def Obligations.BufferHoldsTheFrameBeingAssembled : Prop :=
  ∀ (reqs : List Input) (s t : State) (log : List (Input × Answer)),
    s.decState = .waitingForStart → s.decCursor = 0 → issueAll reqs s = .next (log, t) →
    t.decCursor ≤ t.params.capacity ∧
    (t.decState = .waitingForStart → t.decCursor = 0) ∧
    (t.decState = .insideMessage → ∃ pre m, inboundBytes reqs = pre ++ 0x02 :: wireBody m ∧
      m.length = t.decCursor ∧ ∀ i < t.decCursor, readBuf t i = m[i]?) ∧
    (t.decState = .insideMessageEscaping → ∃ pre m, inboundBytes reqs = pre ++ 0x02 :: (wireBody m ++ [0x04]) ∧
      m.length = t.decCursor ∧ ∀ i < t.decCursor, readBuf t i = m[i]?)

/-- 42_decoder.md R103, over every sequence of requests from a decoder that waits for START, whatever other requests
it holds: when the last answer is MESSAGE_READY len, the inbound bytes end with the whole frame of a payload of that
length, and BUF[0, len) is that payload (wire symbols: log 12; what the host may read: log 11). -/
def Obligations.DeliveredMessageIsTheLastFrame : Prop :=
  ∀ (reqs : List Input) (s t : State) (log : List (Input × Answer)) (len : Nat),
    s.decState = .waitingForStart → issueAll reqs s = .next (log, t) →
    (answersOf log).getLast? = some (delivered len) →
    ∃ pre m, inboundBytes reqs = pre ++ frame m ∧ m.length = len ∧
      (∀ i < len, readBuf t i = m[i]?) ∧ hostMessage t = m.map some

/-- 42_decoder.md R104 (a), and (d), since the decoder may be in any legal state: feeding the frame of a payload that
fits gives CONTINUE for every byte but the last and delivers the payload on the last (what the host may read:
log 11). -/
def Obligations.RoundTripDeliversThePayload : Prop :=
  ∀ (p : List Byte) (s : State), s.faulted = none → s.decState ≠ .illegal → p.length ≤ s.params.capacity →
    ∃ log t, issueAll (feed (frame p)) s = .next (log, t) ∧
      answersOf log = List.replicate (p.length + controlCount p + 1) continued ++ [delivered p.length] ∧
      t.decState = .waitingForStart ∧ (∀ i < p.length, readBuf t i = p[i]?) ∧ hostMessage t = p.map some ∧
      encView t = encView s

/-- 42_decoder.md R104 (b): a payload longer than CAPACITY gives exactly one BUFFER_TOO_SMALL, at the wire byte that
carries p[CAPACITY], CONTINUE for every other byte, and no delivery. -/
def Obligations.OversizedFrameIsDroppedOnce : Prop :=
  ∀ (p : List Byte) (s : State), s.faulted = none → s.decState ≠ .illegal → s.params.capacity < p.length →
    ∃ log t n, issueAll (feed (frame p)) s = .next (log, t) ∧
      answersOf log =
        List.replicate (wireBody (p.take (s.params.capacity + 1))).length continued ++
          bufferTooSmallAnswer :: List.replicate n continued ∧
      (answersOf log).length = (frame p).length ∧
      t.decState = .waitingForStart

/-- 42_decoder.md R104 (c): noise without START, then two frames that fit, gives exactly two deliveries (what
the host may read: log 11). -/
def Obligations.NoiseThenTwoFramesDeliversBoth : Prop :=
  ∀ (noise p q : List Byte) (s : State), s.faulted = none → s.decState = .waitingForStart → 0x02 ∉ noise →
    p.length ≤ s.params.capacity → q.length ≤ s.params.capacity →
    ∃ logA u logB t,
      issueAll (feed (noise ++ frame p)) s = .next (logA, u) ∧
      answersOf logA =
        List.replicate (noise.length + p.length + controlCount p + 1) continued ++ [delivered p.length] ∧
      hostMessage u = p.map some ∧
      issueAll (feed (frame q)) u = .next (logB, t) ∧
      answersOf logB = List.replicate (q.length + controlCount q + 1) continued ++ [delivered q.length] ∧
      hostMessage t = q.map some

/-- 42_decoder.md R102: from reset, with every CAPACITY and every content of BUF, whatever the requests, BUF holds a
byte at exactly the indices below CAPACITY, and the cursor is at most CAPACITY (wire symbols: log 12; after a refused
request: log 4). -/
def Obligations.DecoderNeverWritesPastCapacity : Prop :=
  ∀ (prm : Params) (fill : Nat → Byte) (reqs : List Input) (t : State) (log : List (Input × Answer)),
    issueAll reqs (State.resetOf prm fill) = .next (log, t) →
    t.params = prm ∧ t.decCursor ≤ prm.capacity ∧ ∀ a, (readBuf t a).isSome = true ↔ a < prm.capacity

/-- 70_reset_and_hazards.md R125: while the decoder waits for START, requests that carry at most one byte to it leave
all of BUF as it is, so a delivered slice is not overwritten before the second DEC_INGEST; and until the first, the
host may still read the slice (the window is the model's, log 11). -/
def Obligations.DeliveredSliceOutlivesTheNextIngest : Prop :=
  ∀ (reqs : List Input) (s t : State) (log : List (Input × Answer)),
    s.decState = .waitingForStart → issueAll reqs s = .next (log, t) →
    ((inboundBytes reqs).length ≤ 1 → ∀ a, readBuf t a = readBuf s a) ∧
    (inboundBytes reqs = [] → hostMessage t = hostMessage s)

/-! ### The whole machine -/

/-- 20_memory.md R47: in every interleaving, the requests to DEC get the answers and leave the state that they would
alone, and so do the requests to ENC (wire symbols: log 12). -/
def Obligations.EncoderAndDecoderDoNotInterfere : Prop :=
  ∀ (reqs : List Input) (s t : State) (log : List (Input × Answer)), issueAll reqs s = .next (log, t) →
    (∃ t', issueAll (reqs.filter isDecInput) s = .next (log.filter (fun e => isDecInput e.1), t') ∧
      decView t' = decView t) ∧
    (∃ t', issueAll (reqs.filter isEncInput) s = .next (log.filter (fun e => isEncInput e.1), t') ∧
      encView t' = encView t)

/-- 70_reset_and_hazards.md R120 and R123, whatever the parameters and whatever BUF comes up as (BUF and ENC_PEND are
unspecified there): a pull from reset gives FINISHED, and so does every later one, since no request but ENC_START leaves
phase Done. -/
def Obligations.ResetLeavesTheSpecifiedState : Prop :=
  (∀ (prm : Params) (fill : Nat → Byte) (s : State), s = State.resetOf prm fill →
    s.decState = .waitingForStart ∧ s.decCursor = 0 ∧ s.encPhase = .done ∧ s.encCursor = 0 ∧ s.encLen = 0 ∧
    s.pay = [] ∧ s.refused = false ∧ s.faulted = none ∧
    exec .encPull s = .next { s with answer := finishedAnswer }) ∧
  (∃ prm fill, State.reset = State.resetOf prm fill) ∧
  (∀ (i : Instr) (s t : State), (∃ w p, decode (.request w p) = .ok i) → (∀ p, i ≠ .encStart p) →
    s.encPhase = .done → exec i s = .next t → t.encPhase = .done) ∧
  (∀ s : State, s.encPhase = .done → exec .encPull s = .next { s with answer := finishedAnswer })

/-- The invariant of 10_state.md R18 and R24, with the host's window (log 11), holds at reset, whatever the
parameters and whatever BUF comes up as. -/
def Obligations.InvariantHoldsAtReset : Prop :=
  ∀ (prm : Params) (fill : Nat → Byte), MachineInv (State.resetOf prm fill)

/-- Every step keeps the invariant: R18 (a), (b), R24 (a) to (c), the canonical form of both memories, a byte in BUF at
exactly the indices below CAPACITY, the host's window (log 11) within CAPACITY, and no model fault. -/
def Obligations.EveryStepKeepsTheInvariant : Prop :=
  ∀ s t : State, MachineInv s → step s = .next t → MachineInv t

/-- From every state that keeps the invariant a step answers a next state without a model fault (60_exceptions.md R119,
R118 "no step can stall").  A request may still be refused, and the run then goes on (log 4). -/
def Obligations.InvariantStatesAlwaysStep : Prop :=
  ∀ s : State, MachineInv s → ∃ t, step s = .next t ∧ t.faulted = none ∧ t.params = s.params

/-- 10_state.md R29: neither mark is ever cleared.  That the `faulted` mark stops every step is log 5. -/
def Obligations.MarksAreNeverCleared : Prop :=
  ∀ (i : Instr) (s t : State), exec i s = .next t →
    (s.refused = true → t.refused = true) ∧ (s.faulted.isSome = true → t.faulted.isSome = true)

/-- A step takes the host's next request and runs exactly the instruction it decodes to; a request the decoder refuses
is refused by its name; with no request there is nothing to do (log 1, 4, 24). -/
def Obligations.StepRunsTheDecodedRequest : Prop :=
  ∀ s : State, s.faulted = none →
    (∀ inp rest i, s.script = inp :: rest → decode inp = .ok i → step s = exec i { s with script := rest }) ∧
    (∀ inp rest why, s.script = inp :: rest → decode inp = .error why →
      step s = .next { s with script := rest, refused := true, answer := .refused why }) ∧
    (s.script = [] → step s = .next s)

/-- 20_memory.md R37: MemWrite(BUF, i, 1, v). -/
def Obligations.BufferWriteSetsOneByte : Prop :=
  ∀ (s : State) (i : Nat) (v : Byte),
    (i < s.params.capacity →
      ∃ t, memWriteBuf i v s = .ok t ∧ t = { s with buf := t.buf } ∧ readBuf t i = some v ∧
        (∀ a, a ≠ i → readBuf t a = readBuf s a) ∧ (s.buf.wf → t.buf.wf)) ∧
    (s.params.capacity ≤ i → memWriteBuf i v s = .error .bufferIndexOutOfRange)

/-- The packing of 30_encoding.md R60: each field of RESP is read back from its bits. -/
def Obligations.ResponsePackingKeepsEveryField : Prop :=
  ∀ (cap : Nat) (r : Resp), r.len ≤ cap →
    (r.pack cap).extractLsb' 0 4 = r.code.toBits ∧
    (r.pack cap).extractLsb' 4 8 = r.data ∧
    ((r.pack cap).extractLsb' 12 (lenBits cap)).toNat = r.len

/-- LEN_BITS of 00_scope.md R6: the least n ≥ 1 with 2^n > CAPACITY. -/
def Obligations.LenBitsIsTheLeastWidth : Prop :=
  ∀ cap : Nat, 1 ≤ lenBits cap ∧ cap < 2 ^ lenBits cap ∧ ∀ n, 1 ≤ n → cap < 2 ^ n → lenBits cap ≤ n

/-- The bits of DEC_STATE and ENC_PHASE (10_state.md R14, R17, R19): every encoding is one named state
(log 17). -/
def Obligations.StateEncodingsAreOneToOne : Prop :=
  (∀ d : DecState, DecState.ofBits d.toBits = d) ∧ (∀ v : BitVec 2, (DecState.ofBits v).toBits = v) ∧
  (∀ e : EncPhase, EncPhase.ofBits e.toBits = e) ∧ (∀ v : BitVec 2, (EncPhase.ofBits v).toBits = v) ∧
  DecState.waitingForStart.toBits = 0b00 ∧ DecState.insideMessage.toBits = 0b01 ∧
  DecState.insideMessageEscaping.toBits = 0b10 ∧ DecState.illegal.toBits = 0b11 ∧
  EncPhase.begin.toBits = 0b00 ∧ EncPhase.encoding.toBits = 0b01 ∧
  EncPhase.escapedCharacter.toBits = 0b10 ∧ EncPhase.done.toBits = 0b11

/-- 60_exceptions.md R116: instances share nothing (a system as a list of instances is log 20). -/
def Obligations.InstancesShareNothing : Prop :=
  ∀ (k : Nat) (sys sys' : System), systemStep k sys = .next sys' →
    sys'.length = sys.length ∧ (∀ j, j ≠ k → sys'[j]? = sys[j]?) ∧
    ∀ s, sys[k]? = some s → ∃ t, step s = .next t ∧ sys'[k]? = some t

/-- The request words of 30_encoding.md R65, and reading a line of assembly gives back what it was written from
(the accepted spelling is log 23). -/
def Obligations.AssemblyLinesStandForTheirWords : Prop :=
  (∀ b : Byte, (Asm.ingest b).input = .request (0x000 ||| b.zeroExtend 11) []) ∧
  Asm.eoi.input = .request 0x100 [] ∧ Asm.dreset.input = .request 0x200 [] ∧
  (∀ p, (Asm.estart p).input = .request 0x400 p) ∧ Asm.pull.input = .request 0x500 [] ∧
  (∀ b : Byte, (Asm.classify b).input = .request (0x600 ||| b.zeroExtend 11) []) ∧
  ∀ a : Asm, Asm.parse a.text = some a
end

