-- ==== Sys2Proof/Laws/Decode.lean ====
section
/-! SUPPORT. The laws of the request word's two fields (spec/30_encoding.md R56), and what the decoder answers for each
op. -/

namespace Sys2Proof

@[simp] theorem reqOp_packReq (op : BitVec 3) (d : Byte) : reqOp (packReq op d) = op :=
  BitVec.extractLsb'_append_eq_left

@[simp] theorem reqData_packReq (op : BitVec 3) (d : Byte) : reqData (packReq op d) = d :=
  BitVec.extractLsb'_append_eq_right

/-- A request word is its two fields, so no bit of it is dropped. -/
theorem packReq_reqOp_reqData (w : ReqWord) : packReq (reqOp w) (reqData w) = w := by
  apply BitVec.eq_of_getLsbD_eq
  intro i hi
  simp only [packReq, reqOp, reqData, BitVec.getLsbD_append, BitVec.getLsbD_extractLsb']
  split
  · simp_all
  · rename_i h
    have : 8 + (i - 8) = i := by omega
    have h3 : i - 8 < 3 := by omega
    simp [this, h3]

theorem withoutData_ok {d : Byte} {i j : Instr} : withoutData d i = .ok j ↔ d = 0 ∧ i = j := by
  unfold withoutData
  split <;> simp_all

@[simp] theorem withoutData_zero (i : Instr) : withoutData 0#8 i = .ok i := if_pos rfl

theorem withoutData_of_ne {d : Byte} (i : Instr) (h : d ≠ 0) : withoutData d i = .error .nonZeroData := if_neg h

theorem decode_request (w : ReqWord) (p : List Byte) : decode (.request w p) = decodeRequest w p := rfl

theorem decode_wire (b : Byte) : decode (.wire b) = .ok (decodeWire b) := rfl

/-! What each op of the table decodes to (R57, R64). -/

variable (d : Byte) (p : List Byte)

@[simp] theorem decode_op0 : decodeRequest (packReq 0#3 d) p = .ok (.decIngest d) := by simp [decodeRequest]

@[simp] theorem decode_op1 : decodeRequest (packReq 1#3 d) p = withoutData d .decEoi := by simp [decodeRequest]

@[simp] theorem decode_op2 : decodeRequest (packReq 2#3 d) p = withoutData d .decReset := by simp [decodeRequest]

@[simp] theorem decode_op3 : decodeRequest (packReq 3#3 d) p = .ok (.reserved011 d) := by simp [decodeRequest]

@[simp] theorem decode_op4 : decodeRequest (packReq 4#3 d) p = withoutData d (.encStart p) := by
  simp [decodeRequest]

@[simp] theorem decode_op5 : decodeRequest (packReq 5#3 d) p = withoutData d .encPull := by simp [decodeRequest]

@[simp] theorem decode_op6 : decodeRequest (packReq 6#3 d) p = .ok (.detClassify d) := by simp [decodeRequest]

@[simp] theorem decode_op7 : decodeRequest (packReq 7#3 d) p = .ok (.reserved111 d) := by simp [decodeRequest]

end Sys2Proof
end

