-- ==== Sys2Proof/Laws/Detector.lean ====
section
/-! SUPPORT. The laws of the detector and of the wire format (spec/40_detector.md, spec/30_encoding.md R51 to R54). -/

namespace Sys2Proof.Machine

@[simp] theorem classify_02 : classify 0x02#8 = .start := rfl

@[simp] theorem classify_03 : classify 0x03#8 = .finish := rfl

@[simp] theorem classify_04 : classify 0x04#8 = .escape := rfl

theorem classify_start_iff {b : Byte} : classify b = .start ↔ b = 0x02 := by revert b; decide

theorem classify_finish_iff {b : Byte} : classify b = .finish ↔ b = 0x03 := by revert b; decide

theorem classify_escape_iff {b : Byte} : classify b = .escape ↔ b = 0x04 := by revert b; decide

theorem classify_other_iff {b : Byte} : classify b = .other ↔ b ≠ 0x02 ∧ b ≠ 0x03 ∧ b ≠ 0x04 := by
  revert b; decide

theorem isControl_iff {b : Byte} : isControl b = true ↔ b = 0x02 ∨ b = 0x03 ∨ b = 0x04 := by revert b; decide

theorem isControl_eq_false_iff {b : Byte} : isControl b = false ↔ classify b = .other := by revert b; decide

/-- The complement is its own inverse (R69). -/
@[simp] theorem comp_comp (b : Byte) : comp (comp b) = b := by revert b; decide

/-- The complement of a control byte is no control byte (30_encoding.md R54). -/
theorem isControl_comp_of_isControl {b : Byte} (h : isControl b = true) : isControl (comp b) = false := by
  revert b; decide

theorem escValid_iff {b : Byte} : escValid b = true ↔ b = 0xFB ∨ b = 0xFC ∨ b = 0xFD := by revert b; decide

/-- Every second byte of a legal escape is classified OTHER (R71). -/
theorem classify_comp_of_isControl {b : Byte} (h : isControl b = true) : classify (comp b) = .other :=
  isControl_eq_false_iff.mp (isControl_comp_of_isControl h)

theorem wireImage_of_control {x : Byte} (h : isControl x = true) : wireImage x = [escapeByte, comp x] := by
  simp [wireImage, h]

theorem wireImage_of_other {x : Byte} (h : isControl x = false) : wireImage x = [x] := by
  simp [wireImage, h]

@[simp] theorem wireBody_nil : wireBody [] = [] := rfl

@[simp] theorem wireBody_cons (x : Byte) (p : List Byte) : wireBody (x :: p) = wireImage x ++ wireBody p := rfl

@[simp] theorem wireBody_append (p q : List Byte) : wireBody (p ++ q) = wireBody p ++ wireBody q := by
  induction p with
  | nil => rfl
  | cons x p ih => simp [ih]

/-- The length of what stands between the delimiters (30_encoding.md R53). -/
theorem wireBody_length (p : List Byte) : (wireBody p).length = p.length + controlCount p := by
  induction p with
  | nil => rfl
  | cons x p ih =>
    unfold controlCount at *
    cases h : isControl x
    · simp [wireImage_of_other h, ih, h]
      omega
    · simp [wireImage_of_control h, ih, h]
      omega

/-- No START and no END stands between the delimiters (30_encoding.md R53). -/
theorem ne_delimiter_of_mem_wireBody {p : List Byte} {b : Byte} (h : b ∈ wireBody p) : b ≠ 0x02 ∧ b ≠ 0x03 := by
  induction p with
  | nil => simp at h
  | cons x p ih =>
    rcases List.mem_append.mp h with h | h
    · cases c : isControl x
      · simp only [wireImage_of_other c, List.mem_singleton] at h
        subst h
        have k := classify_other_iff.mp (isControl_eq_false_iff.mp c)
        exact ⟨k.1, k.2.1⟩
      · simp only [wireImage_of_control c, List.mem_cons, List.not_mem_nil, or_false] at h
        rcases h with rfl | rfl
        · decide
        · have k := classify_other_iff.mp (classify_comp_of_isControl c)
          exact ⟨k.1, k.2.1⟩
    · exact ih h

end Sys2Proof.Machine
end

