-- ==== Sys2Proof/Laws/Memory.lean ====
section
/-! SUPPORT. The laws of the byte memories (spec/20_memory.md R34 to R37): read after write, frames, canonical form. -/

namespace Sys2Proof.Machine

@[simp] theorem Memory.read_nil (a : Nat) : Memory.read [] a = none := rfl

theorem Memory.read_cons (c : Host.Cell) (m : Memory) (a : Nat) :
    Memory.read (c :: m) a = if c.1 = a then some c.2 else Memory.read m a := rfl

/-- Reading an index just written gives the byte written. -/
@[simp] theorem Memory.read_write_same (m : Memory) (a : Nat) (v : Byte) : (m.write a v).read a = some v := by
  induction m with
  | nil => simp [Memory.write, Memory.read]
  | cons c m ih =>
    simp only [Memory.write]
    split
    · simp [Memory.read]
    · split
      · simp [Memory.read]
      · rename_i h
        simp [Memory.read, ih, Ne.symm h]

/-- A write leaves every other index as it was. -/
theorem Memory.read_write_of_ne (m : Memory) {a b : Nat} (v : Byte) (h : b ≠ a) :
    (m.write a v).read b = m.read b := by
  induction m with
  | nil => simp [Memory.write, Memory.read, Ne.symm h]
  | cons c m ih =>
    simp only [Memory.write]
    split
    · simp [Memory.read, Ne.symm h]
    · split
      · rename_i e
        subst e
        simp [Memory.read, Ne.symm h]
      · simp [Memory.read, ih]

/-- Every cell after a write is the one written or one that was there. -/
theorem Memory.mem_write {m : Memory} {a : Nat} {v : Byte} {c : Host.Cell} (h : c ∈ m.write a v) :
    c = (a, v) ∨ c ∈ m := by
  induction m with
  | nil => simpa [Memory.write] using h
  | cons d m ih =>
    simp only [Memory.write] at h
    split at h
    · simpa using h
    · split at h
      · simp only [List.mem_cons] at h ⊢
        tauto
      · simp only [List.mem_cons] at h ⊢
        rcases h with h | h
        · exact .inr (.inl h)
        · exact (ih h).imp id .inr

/-- A write keeps the canonical form. -/
theorem Memory.write_wf {m : Memory} (a : Nat) (v : Byte) (h : m.wf) : (m.write a v).wf := by
  induction m with
  | nil => simp [Memory.write, Memory.wf]
  | cons c m ih =>
    obtain ⟨hc, hm⟩ := List.pairwise_cons.mp h
    simp only [Memory.write]
    split
    · rename_i lt
      refine List.pairwise_cons.mpr ⟨fun d hd => ?_, h⟩
      rcases List.mem_cons.mp hd with rfl | hd
      · exact lt
      · exact lt.trans (hc d hd)
    · split
      · rename_i e
        exact List.pairwise_cons.mpr ⟨fun d hd => by simpa [e] using hc d hd, hm⟩
      · refine List.pairwise_cons.mpr ⟨fun d hd => ?_, ih hm⟩
        rcases Memory.mem_write hd with rfl | hd
        · simp only
          omega
        · exact hc d hd

theorem Memory.ofBytesFrom_le {base : Nat} {bs : List Byte} {c : Host.Cell}
    (h : c ∈ Memory.ofBytesFrom base bs) : base ≤ c.1 := by
  induction bs generalizing base with
  | nil => simp [Memory.ofBytesFrom] at h
  | cons b bs ih =>
    rcases List.mem_cons.mp h with rfl | h
    · exact le_rfl
    · exact (Nat.le_succ base).trans (ih h)

theorem Memory.ofBytesFrom_wf (base : Nat) (bs : List Byte) : (Memory.ofBytesFrom base bs).wf := by
  induction bs generalizing base with
  | nil => exact List.Pairwise.nil
  | cons b bs ih =>
    exact List.pairwise_cons.mpr ⟨fun c hc => Nat.lt_of_succ_le (Memory.ofBytesFrom_le hc), ih _⟩

/-- The captured payload is in canonical form. -/
theorem Memory.ofBytes_wf (bs : List Byte) : (Memory.ofBytes bs).wf := Memory.ofBytesFrom_wf 0 bs

theorem Memory.read_ofBytesFrom (base : Nat) (bs : List Byte) (i : Nat) :
    (Memory.ofBytesFrom base bs).read (base + i) = bs[i]? := by
  induction bs generalizing base i with
  | nil => rfl
  | cons b bs ih =>
    cases i with
    | zero => simp [Memory.ofBytesFrom, Memory.read]
    | succ i =>
      have e : base + (i + 1) = base + 1 + i := by omega
      simp [Memory.ofBytesFrom, Memory.read, e, ih]
      omega

/-- PAY[i] = p[i] (10_state.md R23). -/
@[simp] theorem Memory.read_ofBytes (bs : List Byte) (i : Nat) : (Memory.ofBytes bs).read i = bs[i]? := by
  simpa [Memory.ofBytes] using Memory.read_ofBytesFrom 0 bs i

/-- BUF after power-on is in canonical form. -/
theorem Memory.powerOn_wf (capacity : Nat) (fill : Nat → Byte) : (Memory.powerOn capacity fill).wf :=
  List.pairwise_map.mpr List.pairwise_lt_range

/-- BUF after power-on holds a byte at exactly the indices below CAPACITY (20_memory.md R36). -/
@[simp] theorem Memory.read_powerOn (capacity : Nat) (fill : Nat → Byte) (i : Nat) :
    (Memory.powerOn capacity fill).read i = if i < capacity then some (fill i) else none := by
  have general (l : List Nat) : Memory.read (l.map (fun i => (i, fill i))) i = if i ∈ l then some (fill i) else none := by
    induction l with
    | nil => rfl
    | cons j l ih =>
      rw [List.map_cons, Memory.read_cons, ih]
      by_cases e : j = i
      · simp [e]
      · simp [e, Ne.symm e]
  simpa [Memory.powerOn] using general (List.range capacity)

/-- A write at an index that holds a byte leaves the set of indices that hold one. -/
theorem Memory.isSome_read_write {m : Memory} {a : Nat} (v : Byte) (h : (m.read a).isSome) (i : Nat) :
    ((m.write a v).read i).isSome = (m.read i).isSome := by
  by_cases e : i = a
  · simp [e, h]
  · rw [Memory.read_write_of_ne m v e]

/-! ### The two access operations -/

theorem memReadPay_ok {i : Nat} {s : State} {b : Byte} :
    memReadPay i s = .ok b ↔ i < s.encLen ∧ s.pay.read i = some b := by
  unfold memReadPay
  split
  · split <;> simp_all
  · simp_all

theorem memReadPay_error {i : Nat} {s : State} {r : Fault} (h : memReadPay i s = .error r) :
    r = .payloadIndexOutOfRange := by
  unfold memReadPay at h
  split at h
  · split at h <;> simp_all
  · simp_all

theorem memWriteBuf_of_lt {i : Nat} (v : Byte) {s : State} (h : i < s.params.capacity) :
    memWriteBuf i v s = .ok { s with buf := s.buf.write i v } := if_pos h

theorem memWriteBuf_of_ge {i : Nat} (v : Byte) {s : State} (h : s.params.capacity ≤ i) :
    memWriteBuf i v s = .error .bufferIndexOutOfRange := if_neg (Nat.not_lt.mpr h)

/-- Storing a byte where there is room (42_decoder.md R93, R98). -/
theorem storeByte_of_room (v : Byte) {s : State} (h : s.decCursor < s.params.capacity) :
    storeByte v s =
      respond .cont 0 0
        { s with buf := s.buf.write s.decCursor v, decCursor := s.decCursor + 1, decState := .insideMessage } := by
  simp [storeByte, bufOperand, memWriteBuf_of_lt v h]

end Sys2Proof.Machine
end

