-- ==== Sys2Proof/Laws/State.lean ====
section
/-! SUPPORT. What each shared operation does to each field of State, so that no later proof unfolds a record update. -/

namespace Sys2Proof.Machine

/-! ### Power-on reset -/

section Reset

variable (prm : Params) (fill : Nat → Byte)

@[simp] theorem resetOf_params : (State.resetOf prm fill).params = prm := rfl
@[simp] theorem resetOf_decState : (State.resetOf prm fill).decState = .waitingForStart := rfl
@[simp] theorem resetOf_decCursor : (State.resetOf prm fill).decCursor = 0 := rfl
@[simp] theorem resetOf_buf : (State.resetOf prm fill).buf = Memory.powerOn prm.capacity fill := rfl
@[simp] theorem resetOf_encPhase : (State.resetOf prm fill).encPhase = .done := rfl
@[simp] theorem resetOf_encCursor : (State.resetOf prm fill).encCursor = 0 := rfl
@[simp] theorem resetOf_encLen : (State.resetOf prm fill).encLen = 0 := rfl
@[simp] theorem resetOf_encPend : (State.resetOf prm fill).encPend = 0x00 := rfl
@[simp] theorem resetOf_pay : (State.resetOf prm fill).pay = [] := rfl
@[simp] theorem resetOf_refused : (State.resetOf prm fill).refused = false := rfl
@[simp] theorem resetOf_faulted : (State.resetOf prm fill).faulted = none := rfl
@[simp] theorem resetOf_answer : (State.resetOf prm fill).answer = .noResponse := rfl
@[simp] theorem resetOf_window : (State.resetOf prm fill).window = 0 := rfl
@[simp] theorem resetOf_script : (State.resetOf prm fill).script = [] := rfl

end Reset

variable (s : State)

/-! ### respond -/

@[simp] theorem respond_params (c : RespCode) (d : Byte) (n : Nat) : (respond c d n s).params = s.params := rfl
@[simp] theorem respond_decState (c : RespCode) (d : Byte) (n : Nat) : (respond c d n s).decState = s.decState := rfl
@[simp] theorem respond_decCursor (c : RespCode) (d : Byte) (n : Nat) : (respond c d n s).decCursor = s.decCursor := rfl
@[simp] theorem respond_buf (c : RespCode) (d : Byte) (n : Nat) : (respond c d n s).buf = s.buf := rfl
@[simp] theorem respond_encPhase (c : RespCode) (d : Byte) (n : Nat) : (respond c d n s).encPhase = s.encPhase := rfl
@[simp] theorem respond_encCursor (c : RespCode) (d : Byte) (n : Nat) : (respond c d n s).encCursor = s.encCursor := rfl
@[simp] theorem respond_encLen (c : RespCode) (d : Byte) (n : Nat) : (respond c d n s).encLen = s.encLen := rfl
@[simp] theorem respond_encPend (c : RespCode) (d : Byte) (n : Nat) : (respond c d n s).encPend = s.encPend := rfl
@[simp] theorem respond_pay (c : RespCode) (d : Byte) (n : Nat) : (respond c d n s).pay = s.pay := rfl
@[simp] theorem respond_refused (c : RespCode) (d : Byte) (n : Nat) : (respond c d n s).refused = s.refused := rfl
@[simp] theorem respond_faulted (c : RespCode) (d : Byte) (n : Nat) : (respond c d n s).faulted = s.faulted := rfl
@[simp] theorem respond_answer (c : RespCode) (d : Byte) (n : Nat) : (respond c d n s).answer = .response { code := c, data := d, len := n } := rfl
@[simp] theorem respond_window (c : RespCode) (d : Byte) (n : Nat) : (respond c d n s).window = s.window := rfl
@[simp] theorem respond_script (c : RespCode) (d : Byte) (n : Nat) : (respond c d n s).script = s.script := rfl

/-! ### refuse -/

@[simp] theorem refuse_params (w : RefuseReason) : (refuse w s).params = s.params := rfl
@[simp] theorem refuse_decState (w : RefuseReason) : (refuse w s).decState = s.decState := rfl
@[simp] theorem refuse_decCursor (w : RefuseReason) : (refuse w s).decCursor = s.decCursor := rfl
@[simp] theorem refuse_buf (w : RefuseReason) : (refuse w s).buf = s.buf := rfl
@[simp] theorem refuse_encPhase (w : RefuseReason) : (refuse w s).encPhase = s.encPhase := rfl
@[simp] theorem refuse_encCursor (w : RefuseReason) : (refuse w s).encCursor = s.encCursor := rfl
@[simp] theorem refuse_encLen (w : RefuseReason) : (refuse w s).encLen = s.encLen := rfl
@[simp] theorem refuse_encPend (w : RefuseReason) : (refuse w s).encPend = s.encPend := rfl
@[simp] theorem refuse_pay (w : RefuseReason) : (refuse w s).pay = s.pay := rfl
@[simp] theorem refuse_refused (w : RefuseReason) : (refuse w s).refused = true := rfl
@[simp] theorem refuse_faulted (w : RefuseReason) : (refuse w s).faulted = s.faulted := rfl
@[simp] theorem refuse_answer (w : RefuseReason) : (refuse w s).answer = .refused w := rfl
@[simp] theorem refuse_window (w : RefuseReason) : (refuse w s).window = s.window := rfl
@[simp] theorem refuse_script (w : RefuseReason) : (refuse w s).script = s.script := rfl

/-! ### raiseFault -/

@[simp] theorem raiseFault_params (r : Fault) : (raiseFault r s).params = s.params := rfl
@[simp] theorem raiseFault_decState (r : Fault) : (raiseFault r s).decState = s.decState := rfl
@[simp] theorem raiseFault_decCursor (r : Fault) : (raiseFault r s).decCursor = s.decCursor := rfl
@[simp] theorem raiseFault_buf (r : Fault) : (raiseFault r s).buf = s.buf := rfl
@[simp] theorem raiseFault_encPhase (r : Fault) : (raiseFault r s).encPhase = s.encPhase := rfl
@[simp] theorem raiseFault_encCursor (r : Fault) : (raiseFault r s).encCursor = s.encCursor := rfl
@[simp] theorem raiseFault_encLen (r : Fault) : (raiseFault r s).encLen = s.encLen := rfl
@[simp] theorem raiseFault_encPend (r : Fault) : (raiseFault r s).encPend = s.encPend := rfl
@[simp] theorem raiseFault_pay (r : Fault) : (raiseFault r s).pay = s.pay := rfl
@[simp] theorem raiseFault_refused (r : Fault) : (raiseFault r s).refused = s.refused := rfl
@[simp] theorem raiseFault_faulted (r : Fault) : (raiseFault r s).faulted = some r := rfl
@[simp] theorem raiseFault_answer (r : Fault) : (raiseFault r s).answer = .noResponse := rfl
@[simp] theorem raiseFault_window (r : Fault) : (raiseFault r s).window = s.window := rfl
@[simp] theorem raiseFault_script (r : Fault) : (raiseFault r s).script = s.script := rfl

/-! ### recover -/

@[simp] theorem recover_params : (recover s).params = s.params := rfl
@[simp] theorem recover_decState : (recover s).decState = .waitingForStart := rfl
@[simp] theorem recover_decCursor : (recover s).decCursor = 0 := rfl
@[simp] theorem recover_buf : (recover s).buf = s.buf := rfl
@[simp] theorem recover_encPhase : (recover s).encPhase = s.encPhase := rfl
@[simp] theorem recover_encCursor : (recover s).encCursor = s.encCursor := rfl
@[simp] theorem recover_encLen : (recover s).encLen = s.encLen := rfl
@[simp] theorem recover_encPend : (recover s).encPend = s.encPend := rfl
@[simp] theorem recover_pay : (recover s).pay = s.pay := rfl
@[simp] theorem recover_refused : (recover s).refused = s.refused := rfl
@[simp] theorem recover_faulted : (recover s).faulted = s.faulted := rfl
@[simp] theorem recover_answer : (recover s).answer = s.answer := rfl
@[simp] theorem recover_window : (recover s).window = s.window := rfl
@[simp] theorem recover_script : (recover s).script = s.script := rfl

/-! ### raiseOutcome -/

@[simp] theorem raiseOutcome_params (c : RespCode) : (raiseOutcome c s).params = s.params := rfl
@[simp] theorem raiseOutcome_decState (c : RespCode) : (raiseOutcome c s).decState = .waitingForStart := rfl
@[simp] theorem raiseOutcome_decCursor (c : RespCode) : (raiseOutcome c s).decCursor = 0 := rfl
@[simp] theorem raiseOutcome_buf (c : RespCode) : (raiseOutcome c s).buf = s.buf := rfl
@[simp] theorem raiseOutcome_encPhase (c : RespCode) : (raiseOutcome c s).encPhase = s.encPhase := rfl
@[simp] theorem raiseOutcome_encCursor (c : RespCode) : (raiseOutcome c s).encCursor = s.encCursor := rfl
@[simp] theorem raiseOutcome_encLen (c : RespCode) : (raiseOutcome c s).encLen = s.encLen := rfl
@[simp] theorem raiseOutcome_encPend (c : RespCode) : (raiseOutcome c s).encPend = s.encPend := rfl
@[simp] theorem raiseOutcome_pay (c : RespCode) : (raiseOutcome c s).pay = s.pay := rfl
@[simp] theorem raiseOutcome_refused (c : RespCode) : (raiseOutcome c s).refused = s.refused := rfl
@[simp] theorem raiseOutcome_faulted (c : RespCode) : (raiseOutcome c s).faulted = s.faulted := rfl
@[simp] theorem raiseOutcome_answer (c : RespCode) : (raiseOutcome c s).answer = .response { code := c, data := 0, len := 0 } := rfl
@[simp] theorem raiseOutcome_window (c : RespCode) : (raiseOutcome c s).window = s.window := rfl
@[simp] theorem raiseOutcome_script (c : RespCode) : (raiseOutcome c s).script = s.script := rfl

/-! ### closeWindow -/

@[simp] theorem closeWindow_params : (closeWindow s).params = s.params := rfl
@[simp] theorem closeWindow_decState : (closeWindow s).decState = s.decState := rfl
@[simp] theorem closeWindow_decCursor : (closeWindow s).decCursor = s.decCursor := rfl
@[simp] theorem closeWindow_buf : (closeWindow s).buf = s.buf := rfl
@[simp] theorem closeWindow_encPhase : (closeWindow s).encPhase = s.encPhase := rfl
@[simp] theorem closeWindow_encCursor : (closeWindow s).encCursor = s.encCursor := rfl
@[simp] theorem closeWindow_encLen : (closeWindow s).encLen = s.encLen := rfl
@[simp] theorem closeWindow_encPend : (closeWindow s).encPend = s.encPend := rfl
@[simp] theorem closeWindow_pay : (closeWindow s).pay = s.pay := rfl
@[simp] theorem closeWindow_refused : (closeWindow s).refused = s.refused := rfl
@[simp] theorem closeWindow_faulted : (closeWindow s).faulted = s.faulted := rfl
@[simp] theorem closeWindow_answer : (closeWindow s).answer = s.answer := rfl
@[simp] theorem closeWindow_window : (closeWindow s).window = 0 := rfl
@[simp] theorem closeWindow_script : (closeWindow s).script = s.script := rfl

end Sys2Proof.Machine
end

