-- ==== Sys2Proof/Laws/Decoder.lean ====
section
/-! SUPPORT. What DEC does: one lemma per group of cells of the transition table, and one that lists every case
(spec/42_decoder.md R86 to R100). -/

namespace Sys2Proof.Machine

/-- Every instruction that carries a byte to DEC ingests that byte. -/
theorem exec_of_carriedByte {i : Instr} {b : Byte} (s : State) (h : carriedByte i = some b) :
    exec i s = .next (ingest b s) := by
  cases i <;> simp_all [carriedByte] <;> first | rfl | (subst h; rfl)

theorem withLegalDecoder_of_legal {s : State} (body : State → State) (h : s.decState ≠ .illegal) :
    withLegalDecoder body s = body s := if_neg h

theorem withLegalDecoder_of_illegal {s : State} (body : State → State) (h : s.decState = .illegal) :
    withLegalDecoder body s = raiseFault .illegalDecoderState s := if_pos h

theorem DecState.exhaust (d : DecState) :
    d = .waitingForStart ∨ d = .insideMessage ∨ d = .insideMessageEscaping ∨ d = .illegal := by
  cases d <;> simp

variable {b : Byte} {s : State}

theorem ingest_of_illegal (h : s.decState = .illegal) : ingest b s = raiseFault .illegalDecoderState s :=
  withLegalDecoder_of_illegal _ h

/-- The START column (R88, R90, R95). -/
theorem ingest_start (h : s.decState ≠ .illegal) : ingest 0x02 s = ingestStart (closeWindow s) := by
  rw [ingest, withLegalDecoder_of_legal _ h]
  cases e : s.decState <;> simp_all [ingestCell]

/-- R89. -/
theorem ingest_noise (h : s.decState = .waitingForStart) (hb : b ≠ 0x02) :
    ingest b s = ingestNoise (closeWindow s) := by
  rw [ingest, withLegalDecoder_of_legal _ (by simp [h])]
  have c : classify b ≠ .start := fun e => hb (classify_start_iff.mp e)
  cases e : classify b <;> simp_all [ingestCell]

/-- R91. -/
theorem ingest_end (h : s.decState = .insideMessage) : ingest 0x03 s = ingestEnd (closeWindow s) := by
  rw [ingest, withLegalDecoder_of_legal _ (by simp [h])]
  simp [ingestCell, h]

/-- R92. -/
theorem ingest_escape (h : s.decState = .insideMessage) : ingest 0x04 s = ingestEscape (closeWindow s) := by
  rw [ingest, withLegalDecoder_of_legal _ (by simp [h])]
  simp [ingestCell, h]

/-- R93, R94. -/
theorem ingest_data (h : s.decState = .insideMessage) (hb : classify b = .other) :
    ingest b s = ingestData b (closeWindow s) := by
  rw [ingest, withLegalDecoder_of_legal _ (by simp [h])]
  simp [ingestCell, h, hb]

/-- R96, R97, R100. -/
theorem ingest_malformed (h : s.decState = .insideMessageEscaping) (hb : b ≠ 0x02) (hv : escValid b = false) :
    ingest b s = raiseOutcome .invalidEscape (closeWindow s) := by
  rw [ingest, withLegalDecoder_of_legal _ (by simp [h])]
  have c : classify b ≠ .start := fun e => hb (classify_start_iff.mp e)
  cases e : classify b <;> simp_all [ingestCell, ingestEscaped, escValid]

/-- R98, R99. -/
theorem ingest_escaped (h : s.decState = .insideMessageEscaping) (hv : escValid b = true) :
    ingest b s = ingestData (comp b) (closeWindow s) := by
  rw [ingest, withLegalDecoder_of_legal _ (by simp [h])]
  have c : classify b = .other := by
    rcases escValid_iff.mp hv with rfl | rfl | rfl <;> rfl
  have d : isControl (comp b) = true := hv
  simp [ingestCell, h, c, ingestEscaped, d]

/-- A byte to be written, where there is room (R93, R98). -/
theorem ingestData_of_room {v : Byte} (h : s.decCursor < s.params.capacity) :
    ingestData v s =
      respond .cont 0 0
        { s with buf := s.buf.write s.decCursor v, decCursor := s.decCursor + 1, decState := .insideMessage } := by
  simp [ingestData, bufHasRoom, h, storeByte_of_room v h]

/-- A byte to be written to a full buffer (R94, R99). -/
theorem ingestData_of_full {v : Byte} (h : s.params.capacity ≤ s.decCursor) :
    ingestData v s = raiseOutcome .bufferTooSmall s := by
  simp [ingestData, bufHasRoom, Nat.not_lt.mpr h]

/-- Everything that ingesting a byte can do. -/
theorem ingest_cases (b : Byte) (s : State) :
    (s.decState = .illegal ∧ ingest b s = raiseFault .illegalDecoderState s) ∨
    (s.decState ≠ .illegal ∧ b = 0x02 ∧ ingest b s = ingestStart (closeWindow s)) ∨
    (s.decState = .waitingForStart ∧ b ≠ 0x02 ∧ ingest b s = ingestNoise (closeWindow s)) ∨
    (s.decState = .insideMessage ∧ b = 0x03 ∧ ingest b s = ingestEnd (closeWindow s)) ∨
    (s.decState = .insideMessage ∧ b = 0x04 ∧ ingest b s = ingestEscape (closeWindow s)) ∨
    (s.decState = .insideMessage ∧ classify b = .other ∧ ingest b s = ingestData b (closeWindow s)) ∨
    (s.decState = .insideMessageEscaping ∧ b ≠ 0x02 ∧ escValid b = false ∧
      ingest b s = raiseOutcome .invalidEscape (closeWindow s)) ∨
    (s.decState = .insideMessageEscaping ∧ escValid b = true ∧
      ingest b s = ingestData (comp b) (closeWindow s)) := by
  by_cases hb : b = 0x02
  · by_cases hi : s.decState = .illegal
    · exact .inl ⟨hi, ingest_of_illegal hi⟩
    · exact .inr (.inl ⟨hi, hb, hb ▸ ingest_start hi⟩)
  rcases s.decState.exhaust with h | h | h | h
  · exact .inr (.inr (.inl ⟨h, hb, ingest_noise h hb⟩))
  · by_cases h3 : b = 0x03
    · exact .inr (.inr (.inr (.inl ⟨h, h3, h3 ▸ ingest_end h⟩)))
    by_cases h4 : b = 0x04
    · exact .inr (.inr (.inr (.inr (.inl ⟨h, h4, h4 ▸ ingest_escape h⟩))))
    have c := classify_other_iff.mpr ⟨hb, h3, h4⟩
    exact .inr (.inr (.inr (.inr (.inr (.inl ⟨h, c, ingest_data h c⟩)))))
  · by_cases hv : escValid b = true
    · exact .inr (.inr (.inr (.inr (.inr (.inr (.inr ⟨h, hv, ingest_escaped h hv⟩))))))
    · have hv : escValid b = false := by simpa using hv
      exact .inr (.inr (.inr (.inr (.inr (.inr (.inl ⟨h, hb, hv, ingest_malformed h hb hv⟩))))))
  · exact .inl ⟨h, ingest_of_illegal h⟩

/-- Everything that writing a byte can do: the write, or BufferTooSmall. -/
theorem ingestData_cases (v : Byte) (s : State) :
    (s.decCursor < s.params.capacity ∧
      ingestData v s = respond .cont 0 0
        { s with buf := s.buf.write s.decCursor v, decCursor := s.decCursor + 1, decState := .insideMessage }) ∨
    (s.params.capacity ≤ s.decCursor ∧ ingestData v s = raiseOutcome .bufferTooSmall s) := by
  by_cases h : s.decCursor < s.params.capacity
  · exact .inl ⟨h, ingestData_of_room h⟩
  · exact .inr ⟨Nat.not_lt.mp h, ingestData_of_full (Nat.not_lt.mp h)⟩

/-- Ingesting a byte writes DEC_STATE, DEC_CURSOR and BUF, the fault mark, the answer and the host's window, and no
other field. -/
theorem ingest_frame (b : Byte) (s : State) :
    ingest b s = { s with
      decState := (ingest b s).decState, decCursor := (ingest b s).decCursor, buf := (ingest b s).buf,
      faulted := (ingest b s).faulted, answer := (ingest b s).answer, window := (ingest b s).window } := by
  rcases ingest_cases b s with
    ⟨_, h⟩ | ⟨_, _, h⟩ | ⟨_, _, h⟩ | ⟨_, _, h⟩ | ⟨_, _, h⟩ | ⟨_, _, h⟩ | ⟨_, _, _, h⟩ | ⟨_, _, h⟩ <;> rw [h]
  any_goals rfl
  all_goals rcases ingestData_cases _ (closeWindow s) with ⟨_, k⟩ | ⟨_, k⟩ <;> rw [k] <;> rfl

/-- DEC_EOI writes the fault mark and the answer, and no other field. -/
theorem decEoi_frame (s : State) :
    decEoi s = { s with faulted := (decEoi s).faulted, answer := (decEoi s).answer } := by
  simp only [decEoi, withLegalDecoder]
  split <;> rfl

/-- DEC_RESET writes DEC_STATE and DEC_CURSOR, the fault mark and the answer, and no other field. -/
theorem decReset_frame (s : State) :
    decReset s = { s with
      decState := (decReset s).decState, decCursor := (decReset s).decCursor,
      faulted := (decReset s).faulted, answer := (decReset s).answer } := by
  simp only [decReset, withLegalDecoder]
  split <;> rfl

/-- Every instruction either carries a byte to DEC or is one of the other eight. -/
theorem instr_cases (i : Instr) :
    (∃ b, carriedByte i = some b) ∨ i = .decEoi ∨ i = .decReset ∨ (∃ p, i = .encStart p) ∨ i = .encPull ∨
      (∃ b, i = .detClassify b) ∨ (∃ d, i = .reserved011 d) ∨ ∃ d, i = .reserved111 d := by
  cases i <;> simp [carriedByte]

end Sys2Proof.Machine
end

