-- ==== Sys2Proof/Laws/Encoder.lean ====
section
/-! SUPPORT. What ENC does: one lemma per phase, and one that lists every case (spec/41_encoder.md R75 to R82). -/

namespace Sys2Proof.Machine

variable {s : State}

theorem payloadFits_iff {p : List Byte} :
    payloadFits p s = true ↔ ∀ m, s.params.maxPayloadLen = some m → p.length ≤ m := by
  unfold payloadFits
  cases s.params.maxPayloadLen <;> simp

theorem encStart_of_fits {p : List Byte} (h : payloadFits p s = true) :
    encStart p s = respond .ok 0 0
      { s with pay := Memory.ofBytes p, encLen := p.length, encCursor := 0, encPhase := .begin } := if_pos h

theorem encStart_of_too_long {p : List Byte} (h : payloadFits p s = false) :
    encStart p s = refuse .payloadTooLong s := if_neg (by simp [h])

theorem encPull_begin (h : s.encPhase = .begin) : encPull s = pullBegin s := by simp [encPull, h]

theorem encPull_end (h : s.encPhase = .encoding) (e : s.encCursor = s.encLen) : encPull s = pullEnd s := by
  simp [encPull, h, pullEncoding, e]

theorem payOperand_ok {b : Byte} (l : s.encCursor < s.encLen) (r : s.pay.read s.encCursor = some b) :
    payOperand s = .ok b := memReadPay_ok.mpr ⟨l, r⟩

theorem encPull_control {b : Byte} (h : s.encPhase = .encoding) (l : s.encCursor < s.encLen)
    (r : s.pay.read s.encCursor = some b) (c : isControl b = true) : encPull s = pullEscape b s := by
  simp [encPull, h, pullEncoding, l.ne, payOperand_ok l r, c]

theorem encPull_ordinary {b : Byte} (h : s.encPhase = .encoding) (l : s.encCursor < s.encLen)
    (r : s.pay.read s.encCursor = some b) (c : isControl b = false) : encPull s = pullVerbatim b s := by
  simp [encPull, h, pullEncoding, l.ne, payOperand_ok l r, c]

theorem encPull_escaped (h : s.encPhase = .escapedCharacter) : encPull s = pullComplement s := by
  simp [encPull, h]

theorem encPull_done (h : s.encPhase = .done) : encPull s = pullDone s := by simp [encPull, h]

/-- Everything that a pull can do. -/
theorem encPull_cases (s : State) :
    (s.encPhase = .begin ∧ encPull s = pullBegin s) ∨
    (s.encPhase = .encoding ∧ s.encCursor = s.encLen ∧ encPull s = pullEnd s) ∨
    (s.encPhase = .encoding ∧ s.encCursor < s.encLen ∧
      ∃ b, s.pay.read s.encCursor = some b ∧
        ((isControl b = true ∧ encPull s = pullEscape b s) ∨
          (isControl b = false ∧ encPull s = pullVerbatim b s))) ∨
    (s.encPhase = .encoding ∧ s.encCursor ≠ s.encLen ∧
      ¬ (s.encCursor < s.encLen ∧ (s.pay.read s.encCursor).isSome) ∧
      encPull s = raiseFault .payloadIndexOutOfRange s) ∨
    (s.encPhase = .escapedCharacter ∧ encPull s = pullComplement s) ∨
    (s.encPhase = .done ∧ encPull s = pullDone s) := by
  cases h : s.encPhase with
  | begin => exact .inl ⟨rfl, encPull_begin h⟩
  | escapedCharacter => exact .inr (.inr (.inr (.inr (.inl ⟨rfl, encPull_escaped h⟩))))
  | done => exact .inr (.inr (.inr (.inr (.inr ⟨rfl, encPull_done h⟩))))
  | encoding =>
    by_cases e : s.encCursor = s.encLen
    · exact .inr (.inl ⟨rfl, e, encPull_end h e⟩)
    cases r : payOperand s with
    | ok b =>
      obtain ⟨l, rd⟩ := memReadPay_ok.mp r
      refine .inr (.inr (.inl ⟨rfl, l, b, rd, ?_⟩))
      cases c : isControl b
      · exact .inr ⟨rfl, encPull_ordinary h l rd c⟩
      · exact .inl ⟨rfl, encPull_control h l rd c⟩
    | error f =>
      refine .inr (.inr (.inr (.inl ⟨rfl, e, fun ⟨l, x⟩ => ?_, ?_⟩)))
      · obtain ⟨b, hb⟩ := Option.isSome_iff_exists.mp x
        simp [payOperand_ok l hb] at r
      · simp [encPull, h, pullEncoding, e, r, memReadPay_error r]

/-- ENC_PULL writes ENC_PHASE, ENC_CURSOR and ENC_PEND, the fault mark and the answer, and no other field. -/
theorem encPull_frame (s : State) :
    encPull s = { s with
      encPhase := (encPull s).encPhase, encCursor := (encPull s).encCursor, encPend := (encPull s).encPend,
      faulted := (encPull s).faulted, answer := (encPull s).answer } := by
  rcases encPull_cases s with ⟨_, h⟩ | ⟨_, _, h⟩ | ⟨_, _, b, _, ⟨_, h⟩ | ⟨_, h⟩⟩ | ⟨_, _, _, h⟩ | ⟨_, h⟩ | ⟨_, h⟩ <;>
    rw [h] <;> rfl

/-- ENC_START writes PAY, ENC_LEN, ENC_CURSOR and ENC_PHASE, the refused mark and the answer, and no other field. -/
theorem encStart_frame (p : List Byte) (s : State) :
    encStart p s = { s with
      encPhase := (encStart p s).encPhase, encCursor := (encStart p s).encCursor, encLen := (encStart p s).encLen,
      pay := (encStart p s).pay, refused := (encStart p s).refused, answer := (encStart p s).answer } := by
  unfold encStart
  split <;> rfl

end Sys2Proof.Machine
end

