-- ==== Sys2Proof/Laws/PerInstr.lean ====
section
/-! SUPPORT. One fact per instruction, as syntax: what the encoder writes for it matches the match and mask of its row of
spec/opcode_table.json. -/

namespace Sys2Proof.Laws

/-- A row of the opcode table: the bits of its format, its match and its mask. -/
structure Row where
  nbits : Nat
  pattern : Nat
  mask : Nat
deriving DecidableEq, Repr

/-- The row of each constructor, copied from spec/opcode_table.json. -/
def rowOf : Instr → Row
  | .decIngest _ => { nbits := 11, pattern := 0x000, mask := 0x700 }
  | .decEoi => { nbits := 11, pattern := 0x100, mask := 0x7FF }
  | .decReset => { nbits := 11, pattern := 0x200, mask := 0x7FF }
  | .encStart _ => { nbits := 11, pattern := 0x400, mask := 0x7FF }
  | .encPull => { nbits := 11, pattern := 0x500, mask := 0x7FF }
  | .detClassify _ => { nbits := 11, pattern := 0x600, mask := 0x700 }
  | .reserved011 _ => { nbits := 11, pattern := 0x300, mask := 0x700 }
  | .reserved111 _ => { nbits := 11, pattern := 0x700, mask := 0x700 }
  | .wireStart => { nbits := 8, pattern := 0x02, mask := 0xFF }
  | .wireEnd => { nbits := 8, pattern := 0x03, mask := 0xFF }
  | .wireEscape => { nbits := 8, pattern := 0x04, mask := 0xFF }
  | .wireEsc2Start => { nbits := 8, pattern := 0xFD, mask := 0xFF }
  | .wireEsc2End => { nbits := 8, pattern := 0xFC, mask := 0xFF }
  | .wireEsc2Escape => { nbits := 8, pattern := 0xFB, mask := 0xFF }
  | .wireData _ => { nbits := 8, pattern := 0x00, mask := 0x00 }

/-- What the host presents has the row's format and the row's fixed bits. -/
def Row.admits (r : Row) : Input → Bool
  | .request w _ => r.nbits == 11 && (w.toNat &&& r.mask) == r.pattern
  | .wire b => r.nbits == 8 && (b.toNat &&& r.mask) == r.pattern

/-- The encoded word of the instruction matches its row of the opcode table. -/
def MatchesItsRow.Statement (i : Instr) : Prop := (rowOf i).admits (encode i) = true

namespace MatchesItsRow

theorem decIngest (b : Byte) : Statement (.decIngest b) := by
  unfold Statement
  revert b
  decide

theorem decEoi : Statement .decEoi := rfl

theorem decReset : Statement .decReset := rfl

theorem encStart (p : List Byte) : Statement (.encStart p) := by
  simp only [Statement, rowOf, encode, Row.admits]
  decide

theorem encPull : Statement .encPull := rfl

theorem detClassify (b : Byte) : Statement (.detClassify b) := by
  unfold Statement
  revert b
  decide

theorem reserved011 (d : Byte) : Statement (.reserved011 d) := by
  unfold Statement
  revert d
  decide

theorem reserved111 (d : Byte) : Statement (.reserved111 d) := by
  unfold Statement
  revert d
  decide

theorem wireStart : Statement .wireStart := rfl

theorem wireEnd : Statement .wireEnd := rfl

theorem wireEscape : Statement .wireEscape := rfl

theorem wireEsc2Start : Statement .wireEsc2Start := rfl

theorem wireEsc2End : Statement .wireEsc2End := rfl

theorem wireEsc2Escape : Statement .wireEsc2Escape := rfl

theorem wireData (d : Byte) : Statement (.wireData d) := by
  simp [Statement, rowOf, encode, Row.admits]

end MatchesItsRow

end Sys2Proof.Laws
end

