-- ==== Sys2Proof/Laws/Step.lean ====
section
/-! SUPPORT. What one step and a sequence of requests can do. -/

namespace Sys2Proof.Machine

variable {s : State}

/-- A step of a faulted state stops (log 5). -/
theorem step_of_faulted {r : Fault} (h : s.faulted = some r) : step s = .fault r := by simp [step, h]

/-- With no request waiting, CORE idles (log 24). -/
theorem step_idle (h : s.faulted = none) (e : s.script = []) : step s = .next s := by simp [step, h, e]

theorem step_decoded {inp : Input} {rest : List Input} {i : Instr} (h : s.faulted = none)
    (e : s.script = inp :: rest) (d : decode inp = .ok i) : step s = exec i { s with script := rest } := by
  simp [step, h, e, d]

theorem step_rejected {inp : Input} {rest : List Input} {why : RefuseReason} (h : s.faulted = none)
    (e : s.script = inp :: rest) (d : decode inp = .error why) :
    step s = .next (refuse why { s with script := rest }) := by
  simp [step, h, e, d]

/-- Everything that a step which answers a next state can have done. -/
theorem step_cases {t : State} (h : step s = .next t) :
    s.faulted = none ∧
      ((s.script = [] ∧ t = s) ∨
        ∃ inp rest, s.script = inp :: rest ∧
          ((∃ i, decode inp = .ok i ∧ exec i { s with script := rest } = .next t) ∨
            ∃ why, decode inp = .error why ∧ t = refuse why { s with script := rest })) := by
  have f : s.faulted = none := by
    cases e : s.faulted with
    | none => rfl
    | some r => simp [step_of_faulted e] at h
  refine ⟨f, ?_⟩
  cases e : s.script with
  | nil =>
    rw [step_idle f e] at h
    exact .inl ⟨rfl, (Host.Outcome.next.inj h).symm⟩
  | cons inp rest =>
    refine .inr ⟨inp, rest, rfl, ?_⟩
    cases d : decode inp with
    | ok i => exact .inl ⟨i, rfl, by rw [← step_decoded f e d]; exact h⟩
    | error why =>
      rw [step_rejected f e d] at h
      exact .inr ⟨why, rfl, (Host.Outcome.next.inj h).symm⟩

/-- Every instruction answers a next state, in every state. -/
theorem exec_next (i : Instr) (s : State) : ∃ t, exec i s = .next t := by
  cases i <;> exact ⟨_, rfl⟩

/-! ### Issuing requests -/

theorem issue_decoded {inp : Input} {i : Instr} (h : s.faulted = none) (d : decode inp = .ok i) :
    issue inp s = exec i s := step_decoded (s := { s with script := inp :: s.script }) h rfl d

theorem issue_rejected {inp : Input} {why : RefuseReason} (h : s.faulted = none) (d : decode inp = .error why) :
    issue inp s = .next (refuse why s) :=
  step_rejected (s := { s with script := inp :: s.script }) h rfl d

theorem issue_of_faulted {inp : Input} {r : Fault} (h : s.faulted = some r) : issue inp s = .fault r :=
  step_of_faulted (s := { s with script := inp :: s.script }) h

/-- Everything that issuing a request which answers a next state can have done. -/
theorem issue_cases {inp : Input} {t : State} (h : issue inp s = .next t) :
    s.faulted = none ∧
      ((∃ i, decode inp = .ok i ∧ exec i s = .next t) ∨ ∃ why, decode inp = .error why ∧ t = refuse why s) := by
  have f : s.faulted = none := by
    cases e : s.faulted with
    | none => rfl
    | some r => simp [issue_of_faulted e] at h
  refine ⟨f, ?_⟩
  cases d : decode inp with
  | ok i =>
    rw [issue_decoded f d] at h
    exact .inl ⟨i, rfl, h⟩
  | error w =>
    rw [issue_rejected f d] at h
    exact .inr ⟨w, rfl, (Host.Outcome.next.inj h).symm⟩

@[simp] theorem issueAll_nil (s : State) : issueAll [] s = .next ([], s) := rfl

theorem issueAll_cons {inp : Input} {rest : List Input} {t u : State} {log : List (Input × Answer)}
    (h : issue inp s = .next t) (k : issueAll rest t = .next (log, u)) :
    issueAll (inp :: rest) s = .next ((inp, t.answer) :: log, u) := by
  simp [issueAll, h, k]

/-- What a sequence that went through to its end did first. -/
theorem issueAll_cons_inv {inp : Input} {rest : List Input} {u : State} {log : List (Input × Answer)}
    (h : issueAll (inp :: rest) s = .next (log, u)) :
    ∃ t log', issue inp s = .next t ∧ issueAll rest t = .next (log', u) ∧ log = (inp, t.answer) :: log' := by
  unfold issueAll at h
  cases e : issue inp s with
  | next t =>
    obtain k | k | k : (∃ l w, issueAll rest t = .next (l, w)) ∨ (∃ r, issueAll rest t = .fault r) ∨
        ∃ r, issueAll rest t = .refused r := by
      rcases issueAll rest t with ⟨l, w⟩ | r | r <;> simp
    · obtain ⟨l, w, k⟩ := k
      simp only [e, k, Host.Outcome.next.injEq, Prod.mk.injEq] at h
      exact ⟨t, l, rfl, h.2 ▸ k, h.1.symm⟩
    · obtain ⟨r, k⟩ := k
      simp [e, k] at h
    · obtain ⟨r, k⟩ := k
      simp [e, k] at h
  | fault r => simp [e] at h
  | refused r => simp [e] at h

/-- Two sequences one after the other. -/
theorem issueAll_append {as bs : List Input} {t u : State} {la lb : List (Input × Answer)}
    (h : issueAll as s = .next (la, t)) (k : issueAll bs t = .next (lb, u)) :
    issueAll (as ++ bs) s = .next (la ++ lb, u) := by
  induction as generalizing s la with
  | nil => simp_all
  | cons a as ih =>
    obtain ⟨w, l, h1, h2, rfl⟩ := issueAll_cons_inv h
    exact issueAll_cons h1 (ih h2)

/-- A sequence that went through to its end, cut in two. -/
theorem issueAll_append_inv {as bs : List Input} {u : State} {log : List (Input × Answer)}
    (h : issueAll (as ++ bs) s = .next (log, u)) :
    ∃ t la lb, issueAll as s = .next (la, t) ∧ issueAll bs t = .next (lb, u) ∧ log = la ++ lb := by
  induction as generalizing s log with
  | nil => exact ⟨s, [], log, rfl, h, rfl⟩
  | cons a as ih =>
    obtain ⟨w, l, h1, h2, rfl⟩ := issueAll_cons_inv h
    obtain ⟨t, la, lb, k1, k2, rfl⟩ := ih h2
    exact ⟨t, _, lb, issueAll_cons h1 k1, k2, rfl⟩

theorem decode_encode_decIngest (b : Byte) : decode (encode (.decIngest b)) = .ok (.decIngest b) := by
  simp [encode, decode]

theorem decode_encode_encPull : decode (encode .encPull) = .ok .encPull := by
  simp [encode, decode]

/-- Feeding one byte ingests it. -/
theorem issue_feed (b : Byte) (h : s.faulted = none) : issue (encode (.decIngest b)) s = .next (ingest b s) := by
  rw [issue_decoded h (decode_encode_decIngest b)]
  rfl

/-- Pulling. -/
theorem issue_pull (h : s.faulted = none) : issue (encode .encPull) s = .next (encPull s) := by
  rw [issue_decoded h decode_encode_encPull]
  rfl

end Sys2Proof.Machine
end

