-- ==== Sys2Proof/Tests/Slice0.lean ====
section
/-! SUPPORT. The model's own tests.  Expected results are taken from spec/95_test_vectors.md and from the encodings of
spec/30_encoding.md and spec/opcode_table.json; each test names its vector.  The witnesses at the end meet the
hypotheses of the statements in Certificates/Slice0/Obligations.lean. -/

namespace Sys2Proof.Tests

open Sys2Proof Sys2Proof.Machine

/-! ### States the tests start from -/

/-- An instance out of reset, with a CAPACITY; what BUF holds is left free. -/
def fresh (cap : Nat) : State := State.resetOf { capacity := cap, maxPayloadLen := none } Config.powerOnByte

/-- The same with a MAX_PAYLOAD_LEN of 2. -/
def bounded (cap : Nat) : State := State.resetOf { capacity := cap, maxPayloadLen := some 2 } Config.powerOnByte

/-- A decoder inside a message that holds the bytes of `bs`, with the rest of BUF as it came up. -/
def inside (cap : Nat) (bs : List Byte) : State :=
  { fresh cap with
    decState := .insideMessage, decCursor := bs.length
    buf := Memory.powerOn cap (fun i => (bs[i]?).getD (Config.powerOnByte i)) }

/-- The same after an ESCAPE. -/
def escaping (cap : Nat) (bs : List Byte) : State := { inside cap bs with decState := .insideMessageEscaping }

/-- The decoder in its illegal state. -/
def broken (cap : Nat) : State := { fresh cap with decState := .illegal }

/-- An encoder in a phase, at a cursor of a payload. -/
def encodingAt (ph : EncPhase) (cur : Nat) (p : List Byte) : State :=
  { fresh 2 with encPhase := ph, encCursor := cur, encLen := p.length, pay := Memory.ofBytes p }

/-- What a meaning leaves, where it goes on. -/
def nextOf {α φ ρ : Type} : Host.Outcome α φ ρ → Option α
  | .next t => some t
  | .fault _ => none
  | .refused _ => none

/-- One instruction: DEC_STATE, DEC_CURSOR and the answer after it. -/
def decAfter (i : Instr) (s : State) : Option (DecState × Nat × Answer) :=
  (nextOf (exec i s)).map (fun t => (t.decState, t.decCursor, t.answer))

/-- One instruction: ENC_PHASE, ENC_CURSOR, ENC_LEN and the answer after it. -/
def encAfter (i : Instr) (s : State) : Option (EncPhase × Nat × Nat × Answer) :=
  (nextOf (exec i s)).map (fun t => (t.encPhase, t.encCursor, t.encLen, t.answer))

/-- One instruction: the byte of BUF at an index after it. -/
def bufAfter (i : Instr) (s : State) (a : Nat) : Option Byte := (nextOf (exec i s)).bind (fun t => readBuf t a)

/-! ### Well-formedness: the one check there is, and the terms it refuses -/

theorem smoke_wireData_of_own_rows_is_ill_formed :
    (Instr.wireData 0x02).wf = false ∧ (Instr.wireData 0x03).wf = false ∧ (Instr.wireData 0x04).wf = false ∧
    (Instr.wireData 0xFD).wf = false ∧ (Instr.wireData 0xFC).wf = false ∧ (Instr.wireData 0xFB).wf = false := by
  decide

theorem smoke_the_neighbours_are_well_formed :
    (Instr.wireData 0x01).wf = true ∧ (Instr.wireData 0x05).wf = true ∧ (Instr.wireData 0xFA).wf = true ∧
    (Instr.wireData 0xFE).wf = true ∧ (Instr.decIngest 0x02).wf = true ∧ (Instr.encStart []).wf = true := by
  decide

/-! ### Decoding: words written out from spec/30_encoding.md R50, R51, R57 and 95_test_vectors.md 2.1 -/

theorem test_decode_decIngest : decode (.request 0b000_11111111#11 []) = .ok (.decIngest 0xFF) := by decide
theorem test_decode_decEoi : decode (.request 0b001_00000000#11 []) = .ok .decEoi := by decide
theorem test_decode_decReset : decode (.request 0b010_00000000#11 []) = .ok .decReset := by decide
theorem test_decode_reserved011 : decode (.request 0b011_10100101#11 []) = .ok (.reserved011 0xA5) := by decide
theorem test_decode_encStart : decode (.request 0b100_00000000#11 [7, 8]) = .ok (.encStart [7, 8]) := by decide
theorem test_decode_encPull : decode (.request 0b101_00000000#11 []) = .ok .encPull := by decide
theorem test_decode_detClassify : decode (.request 0b110_00000011#11 []) = .ok (.detClassify 0x03) := by decide
theorem test_decode_reserved111 : decode (.request 0b111_11111111#11 []) = .ok (.reserved111 0xFF) := by decide
theorem test_decode_wireStart : decode (.wire 0b00000010) = .ok .wireStart := by decide
theorem test_decode_wireEnd : decode (.wire 0b00000011) = .ok .wireEnd := by decide
theorem test_decode_wireEscape : decode (.wire 0b00000100) = .ok .wireEscape := by decide
theorem test_decode_wireEsc2Start : decode (.wire 0b11111101) = .ok .wireEsc2Start := by decide
theorem test_decode_wireEsc2End : decode (.wire 0b11111100) = .ok .wireEsc2End := by decide
theorem test_decode_wireEsc2Escape : decode (.wire 0b11111011) = .ok .wireEsc2Escape := by decide
theorem test_decode_wireData : decode (.wire 0b01111110) = .ok (.wireData 0x7E) := by decide

theorem test_decode_refuses_nonZeroData :
    decode (.request 0b001_00000001#11 []) = .error .nonZeroData ∧
    decode (.request 0b010_11111111#11 []) = .error .nonZeroData ∧
    decode (.request 0b100_00000001#11 []) = .error .nonZeroData ∧
    decode (.request 0b101_10000000#11 []) = .error .nonZeroData := by decide

/-- The opcode table's words, by its numbering of bits. -/
theorem test_table_words :
    decodeTableWord 11 0x041 = some (.decIngest 0x41) ∧ decodeTableWord 16 0x500 = some .encPull ∧
    decodeTableWord 16 0x400 = some (.encStart []) ∧ decodeTableWord 16 0x3A5 = some (.reserved011 0xA5) ∧
    decodeTableWord 16 0x101 = none ∧ decodeTableWord 16 0x800 = none ∧
    decodeTableWord 8 0xFD = some .wireEsc2Start ∧ decodeTableWord 8 0x00 = some (.wireData 0x00) := by decide

/-- The row's instruction is what the next step runs. -/
theorem test_withFetchWord :
    (State.reset.withFetchWord 16 0x603).script = [.request 0x603#11 []] ∧
    (State.reset.withFetchWord 8 0x02).script = [.wire 0x02] ∧
    (nextOf (step (State.reset.withFetchWord 8 0x02))).map (fun t => (t.decState, t.script)) =
      some (.insideMessage, []) := ⟨rfl, rfl, rfl⟩

/-- spec/30_encoding.md R60, 95_test_vectors.md notation: MESSAGE_READY len 7 = 0x7002, EMIT 0xFD = 0xFD6. -/
theorem test_response_packing :
    (Resp.pack 7 { code := .messageReady, data := 0, len := 7 }).toNat = 0x7002 ∧
    (Resp.pack 4 { code := .emit, data := 0xFD, len := 0 }).toNat = 0xFD6 ∧
    (Resp.pack 4 { code := .classified, data := 2, len := 0 }).toNat = 0x028 ∧
    lenBits 0 = 1 ∧ lenBits 2 = 2 ∧ lenBits 4 = 3 := by decide

/-! ### One step: the detector (95_test_vectors.md 2.2) -/

theorem test_detClassify_control :
    (nextOf (exec (.detClassify 0x03) (escaping 2 []))).map (fun t => (t.answer, t.decState)) =
      some (.response { code := .classified, data := 2, len := 0 }, .insideMessageEscaping) := rfl

theorem test_detClassify_second_byte_is_other :
    (nextOf (exec (.detClassify 0xFB) (fresh 2))).map (·.answer) =
      some (.response { code := .classified, data := 0, len := 0 }) := rfl

/-! ### One step: the encoder (95_test_vectors.md 2.3) -/

/-- T-ENC-14: a restart inside EscapedCharacter. -/
theorem test_encStart_restarts :
    encAfter (.encStart [0x43]) (encodingAt .escapedCharacter 1 [0x02]) = some (.begin, 0, 1, okAnswer) := rfl

/-- 2.1: PayloadTooLong leaves ENC as it is. -/
theorem test_encStart_too_long :
    encAfter (.encStart [0x01, 0x02, 0x03]) (bounded 2) = some (.done, 0, 0, .refused .payloadTooLong) := rfl

/-- T-ENC-3, the second pull: ESCAPE, with the byte held. -/
theorem test_encPull_escape :
    (nextOf (exec .encPull (encodingAt .encoding 0 [0x02]))).map
      (fun t => (t.encPhase, t.encCursor, t.encPend, t.answer)) =
      some (.escapedCharacter, 1, 0x02, emitted 0x04) := rfl

/-- T-ENC-8: 0xFD is sent raw. -/
theorem test_encPull_verbatim :
    encAfter .encPull (encodingAt .encoding 0 [0xFD]) = some (.encoding, 1, 1, emitted 0xFD) := rfl

/-! ### One step: the decoder (95_test_vectors.md 2.4) -/

/-- T-DEC-10. -/
theorem test_decIngest_data :
    decAfter (.decIngest 0x42) (inside 2 [0x41]) = some (.insideMessage, 2, continued) ∧
    bufAfter (.decIngest 0x42) (inside 2 [0x41]) 1 = some 0x42 ∧
    bufAfter (.decIngest 0x42) (inside 2 [0x41]) 0 = some 0x41 := ⟨rfl, rfl, rfl⟩

/-- T-DEC-27: validity is checked before capacity. -/
theorem test_decIngest_invalid_before_capacity :
    decAfter (.decIngest 0x10) (escaping 2 [0x41, 0x42]) = some (.waitingForStart, 0, invalidEscapeAnswer) := rfl

/-- T-DEC-31. -/
theorem test_decEoi_keeps_the_escape :
    decAfter .decEoi (escaping 2 [0x41]) = some (.insideMessageEscaping, 1, endOfInputAnswer) := rfl

/-- T-DEC-32: BUF[0] is stale. -/
theorem test_decReset_keeps_the_buffer :
    decAfter .decReset (inside 2 [0x41]) = some (.waitingForStart, 0, okAnswer) ∧
    bufAfter .decReset (inside 2 [0x41]) 0 = some 0x41 := ⟨rfl, rfl⟩

/-- T-DEC-6. -/
theorem test_wireStart_resynchronises :
    decAfter .wireStart (inside 2 [0x41]) = some (.insideMessage, 0, continued) ∧
    bufAfter .wireStart (inside 2 [0x41]) 0 = some 0x41 := ⟨rfl, rfl⟩

/-- T-DEC-12: a full buffer is no error at END. -/
theorem test_wireEnd_delivers :
    decAfter .wireEnd (inside 2 [0x41, 0x42]) = some (.waitingForStart, 0, delivered 2) := rfl

/-- T-DEC-16. -/
theorem test_wireEnd_in_escape :
    decAfter .wireEnd (escaping 2 []) = some (.waitingForStart, 0, invalidEscapeAnswer) := rfl

/-- T-DEC-13: no capacity check at ESCAPE. -/
theorem test_wireEscape_on_full_buffer :
    decAfter .wireEscape (inside 2 [0x41, 0x42]) = some (.insideMessageEscaping, 2, continued) := rfl

/-- T-DEC-17. -/
theorem test_wireEscape_twice :
    decAfter .wireEscape (escaping 2 []) = some (.waitingForStart, 0, invalidEscapeAnswer) := rfl

/-- T-DEC-18. -/
theorem test_wireEsc2Start_writes_start :
    decAfter .wireEsc2Start (escaping 2 []) = some (.insideMessage, 1, continued) ∧
    bufAfter .wireEsc2Start (escaping 2 []) 0 = some 0x02 := ⟨rfl, rfl⟩

/-- T-DEC-21. -/
theorem test_wireEsc2Start_on_full_buffer :
    decAfter .wireEsc2Start (escaping 2 [0x41, 0x42]) = some (.waitingForStart, 0, bufferTooSmallAnswer) := rfl

/-- T-DEC-19. -/
theorem test_wireEsc2End_writes_end : bufAfter .wireEsc2End (escaping 2 []) 0 = some 0x03 := rfl

/-- T-DEC-20. -/
theorem test_wireEsc2Escape_writes_escape : bufAfter .wireEsc2Escape (escaping 2 []) 0 = some 0x04 := rfl

/-- T-DEC-4. -/
theorem test_wireData_is_noise : decAfter (.wireData 0x41) (fresh 2) = some (.waitingForStart, 0, continued) := rfl

/-- T-CAP-1: CAPACITY = 0. -/
theorem test_wireData_with_no_buffer :
    decAfter (.wireData 0x41) (inside 0 []) = some (.waitingForStart, 0, bufferTooSmallAnswer) := rfl

/-- PR5, request 11. -/
theorem test_reserved011_refuses :
    (nextOf (exec (.reserved011 0) (inside 2 [0x43]))).map (fun t => (t.refused, t.decState, t.answer)) =
      some (true, .insideMessage, .refused .reservedOp) := rfl

theorem test_reserved111_refuses :
    (nextOf (exec (.reserved111 0xFF) (fresh 2))).map (fun t => (t.refused, t.faulted, t.answer)) =
      some (true, none, .refused .reservedOp) := rfl

/-- spec/10_state.md R17: the fault, and the stop after it. -/
theorem test_illegal_state_faults_and_stops :
    (nextOf (exec .decEoi (broken 2))).map (fun t => (t.faulted, t.answer)) =
      some (some .illegalDecoderState, .noResponse) ∧
    step { broken 2 with faulted := some .illegalDecoderState } = .fault .illegalDecoderState := ⟨rfl, rfl⟩

/-- 30_encoding.md R65: a line with its comment. -/
theorem test_parse_line :
    Asm.parse "ingest 0x4f ; data".toList = some (.ingest 0x4F) ∧ Asm.parse "estart []".toList = some (.estart []) ∧
    Asm.parse "estart [0x01, 0xFF]".toList = some (.estart [0x01, 0xFF]) ∧ Asm.parse "ingest 4f".toList = none := by
  decide

/-- spec/10_state.md R16, spec/20_memory.md R36: out of reset BUF holds a byte, any byte, at every index below CAPACITY
and no index from there on. -/
theorem test_buffer_at_reset (cap : Nat) (fill : Nat → Byte) :
    (∀ i < cap, readBuf (State.resetOf { capacity := cap, maxPayloadLen := none } fill) i = some (fill i)) ∧
    readBuf (State.resetOf { capacity := cap, maxPayloadLen := none } fill) cap = none := by
  simp +contextual [readBuf]

/-! ### Witnesses: for each statement with hypotheses, states and operands that meet each clause's hypotheses, at a
boundary value of its range -/

theorem witness_DecodeOfEncodeIsTheInstruction :
    (Instr.wireData 0x05).wf = true ∧ (Instr.encStart [0x02]).wf = true ∧ (Instr.decIngest 0xFF).wf = true := by decide

theorem witness_EncodeOfDecodeIsTheWord :
    decode (.request 0x100 [0x01]) = .ok .decEoi ∧ decode (.request 0x6FF []) = .ok (.detClassify 0xFF) ∧
    decode (.request 0x400 [0x01]) = .ok (.encStart [0x01]) ∧ decode (.wire 0xFF) = .ok (.wireData 0xFF) := by decide

theorem witness_RefusedRequestsSetTheMarkAlone :
    (bounded 2).faulted = none ∧ 0b111#3 ∈ [0b011#3, 0b111#3] ∧ 0b101#3 ∈ [0b001#3, 0b010#3, 0b100#3, 0b101#3] ∧
    (0x01 : Byte) ≠ 0 ∧ (bounded 2).params.maxPayloadLen = some 2 ∧ 2 < [0x01#8, 0x02, 0x03].length := by decide

theorem witness_EncStartBeginsANewSequence :
    (∀ m, (bounded 2).params.maxPayloadLen = some m → [0x01#8, 0x02].length ≤ m) ∧
    (∀ m, (fresh 0).params.maxPayloadLen = some m → [0x01#8].length ≤ m) ∧
    (bounded 2).params.maxPayloadLen = some 2 ∧ 2 < [0x01#8, 0x02, 0x03].length := by simp [bounded, fresh]

theorem witness_PayloadIsCapturedAndKept :
    (∀ m, (bounded 2).params.maxPayloadLen = some m → [0x01#8, 0x02].length ≤ m) ∧
    (∃ t, exec (.encStart [0x01, 0x02]) (bounded 2) = .next t) ∧
    (∀ p, Instr.encPull ≠ .encStart p) ∧ ∃ t, exec .encPull (encodingAt .encoding 0 [0x02]) = .next t := by
  refine ⟨by simp [bounded], ⟨_, rfl⟩, by simp, ⟨_, rfl⟩⟩

theorem witness_PullInBeginEmitsStart : (encodingAt .begin 0 [0x02]).encPhase = .begin := by decide

theorem witness_PullWithNothingRemainingEmitsEnd :
    (encodingAt .encoding 0 []).encPhase = .encoding ∧
    (encodingAt .encoding 0 []).encCursor = (encodingAt .encoding 0 []).encLen := by decide

theorem witness_PullAtControlByteEmitsEscape :
    (encodingAt .encoding 1 [0x41, 0x04]).encPhase = .encoding ∧
    (encodingAt .encoding 1 [0x41, 0x04]).encCursor < (encodingAt .encoding 1 [0x41, 0x04]).encLen ∧
    (encodingAt .encoding 1 [0x41, 0x04]).pay.read (encodingAt .encoding 1 [0x41, 0x04]).encCursor = some 0x04 := by
  decide

theorem witness_PullAtOrdinaryByteEmitsItVerbatim :
    (encodingAt .encoding 0 [0x05]).encPhase = .encoding ∧
    (encodingAt .encoding 0 [0x05]).encCursor < (encodingAt .encoding 0 [0x05]).encLen ∧
    (encodingAt .encoding 0 [0x05]).pay.read (encodingAt .encoding 0 [0x05]).encCursor = some 0x05 ∧
    (0x05 : Byte) ≠ 0x02 ∧ (0x05 : Byte) ≠ 0x03 ∧ (0x05 : Byte) ≠ 0x04 := by decide

theorem witness_PullAfterEscapeEmitsTheComplement :
    (encodingAt .escapedCharacter 1 [0x02]).encPhase = .escapedCharacter := by decide

theorem witness_PullWhenDoneAnswersFinished : (fresh 0).encPhase = .done := by decide

/-- An encoder past its payload, which no run reaches. -/
def pastTheEnd : State := encodingAt .encoding 2 [0x02]

/-- An instance out of reset keeps the encoder's invariant. -/
theorem fresh_encInv (cap : Nat) : EncInv (fresh cap) where
  cursor_le := Nat.le_refl 0
  pay_wf := List.Pairwise.nil
  pay_full := by simp [fresh]
  pending := by simp [fresh]
  begin_cursor := by simp [fresh]
  len_le := by simp [fresh]

theorem witness_PayloadReadOutsideItsRangeFaults :
    (0 < (encodingAt .encoding 0 [0x02]).encLen ∧ (encodingAt .encoding 0 [0x02]).pay.read 0 = some 0x02) ∧
    (encodingAt .encoding 0 [0x02]).encLen ≤ 1 ∧
    (pastTheEnd.encPhase = .encoding ∧ pastTheEnd.encLen < pastTheEnd.encCursor) ∧
    EncInv (fresh 2) ∧ ∃ t, exec .encPull (fresh 2) = .next t :=
  ⟨by decide, by decide, by decide, fresh_encInv 2, ⟨_, rfl⟩⟩

theorem witness_EncoderRequestsChangeOnlyTheEncoder :
    (∃ t, exec .encPull (encodingAt .encoding 0 [0x02]) = .next t) ∧
    (∃ t, exec .encPull pastTheEnd = .next t) ∧
    (∃ t, exec (.encStart [0x01, 0x02]) (bounded 2) = .next t) ∧
    ∃ t, exec (.encStart [0x01, 0x02, 0x03]) (bounded 2) = .next t := ⟨⟨_, rfl⟩, ⟨_, rfl⟩, ⟨_, rfl⟩, ⟨_, rfl⟩⟩

theorem witness_PullsEmitExactlyTheFrame :
    (bounded 2).faulted = none ∧ ∀ m, (bounded 2).params.maxPayloadLen = some m → [0x02#8, 0x03].length ≤ m := by
  simp [bounded]

theorem witness_FrameHasItsShapeAndLength : (wireBody [0x41, 0x02])[1]? = some 0x04 := by decide

theorem witness_FramesAreUniquelyReadable :
    frame [0x02] ++ [0x05] = frame [0x02] ++ [0x05] ∧ frame [] ++ frame [0x04] = frame [] ++ frame [0x04] := by decide

theorem witness_DecResetReturnsToWaitingForStart :
    (escaping 2 [0x41]).decState ≠ .illegal ∧ (broken 2).decState = .illegal := by decide

theorem witness_StartAlwaysResynchronises :
    (fresh 0).decState ≠ .illegal ∧ (inside 2 [0x41, 0x42]).decState ≠ .illegal ∧
    (escaping 2 []).decState ≠ .illegal := by decide

theorem witness_NoiseOutsideAFrameIsIgnored :
    (fresh 2).decState = .waitingForStart ∧ (0x03 : Byte) ≠ 0x02 ∧ (0x01 : Byte) ≠ 0x02 := by decide

theorem witness_EndInsideAMessageDeliversIt :
    (inside 0 []).decState = .insideMessage ∧
    ∃ t, exec .wireEnd (inside 2 [0x41, 0x42]) = .next t ∧ t.answer = delivered 2 := ⟨rfl, _, rfl, rfl⟩

theorem witness_EscapeInsideAMessageBeginsAnEscape : (inside 2 [0x41, 0x42]).decState = .insideMessage := by decide

theorem witness_DataByteWithRoomIsWrittenAtTheCursor :
    (inside 2 [0x41]).decState = .insideMessage ∧ (inside 2 [0x41]).decCursor < (inside 2 [0x41]).params.capacity ∧
    (0x05 : Byte) ≠ 0x02 ∧ (0x05 : Byte) ≠ 0x03 ∧ (0x05 : Byte) ≠ 0x04 := by decide

theorem witness_DataByteAtAFullBufferDropsTheFrame :
    (inside 0 []).decState = .insideMessage ∧ (inside 0 []).decCursor = (inside 0 []).params.capacity ∧
    (inside 2 [0x41, 0x42]).decCursor = (inside 2 [0x41, 0x42]).params.capacity ∧
    (0xFB : Byte) ≠ 0x02 ∧ (0xFB : Byte) ≠ 0x03 ∧ (0xFB : Byte) ≠ 0x04 := by decide

theorem witness_MalformedEscapeDropsTheFrame :
    (escaping 2 [0x41, 0x42]).decState = .insideMessageEscaping ∧
    (0x03 : Byte) ≠ 0x02 ∧ (0x03 : Byte) ≠ 0xFB ∧ (0x03 : Byte) ≠ 0xFC ∧ (0x03 : Byte) ≠ 0xFD ∧
    (0xFE : Byte) ≠ 0x02 ∧ (0xFE : Byte) ≠ 0xFB ∧ (0xFE : Byte) ≠ 0xFC ∧ (0xFE : Byte) ≠ 0xFD := by decide

theorem witness_ValidEscapeWithRoomWritesTheOriginalByte :
    (escaping 2 [0x41]).decState = .insideMessageEscaping ∧
    (escaping 2 [0x41]).decCursor < (escaping 2 [0x41]).params.capacity := by decide

theorem witness_ValidEscapeAtAFullBufferDropsTheFrame :
    (escaping 0 []).decState = .insideMessageEscaping ∧
    (escaping 0 []).decCursor = (escaping 0 []).params.capacity := by decide

theorem witness_EndOfInputKeepsTheDecoderState :
    (escaping 2 []).decState ≠ .illegal ∧ (broken 0).decState = .illegal := by decide

theorem witness_WireSymbolsFollowTheTransitionTable :
    (fresh 2).decState ≠ .illegal ∧ carriedByte .wireEnd = some 0x03 ∧ (fresh 2).decState = .waitingForStart ∧
    (inside 2 [0x41]).decState = .insideMessage ∧ carriedByte .wireEscape = some 0x04 ∧
    carriedByte .wireEsc2Start = some 0xFD ∧ carriedByte .wireEsc2End = some 0xFC ∧
    carriedByte .wireEsc2Escape = some 0xFB ∧ carriedByte (.wireData 0x05) = some 0x05 ∧
    (escaping 2 [0x41]).decState = .insideMessageEscaping := by decide

theorem witness_IllegalDecoderStateFaultsAndStops :
    (isDecInstr .wireEnd = true ∧ isDecInstr .decReset = true ∧ (broken 2).decState = .illegal) ∧
    (∃ t, exec .encPull (broken 2) = .next t ∧ t.decState = .illegal) ∧
    { broken 2 with faulted := some .illegalDecoderState }.faulted = some Fault.illegalDecoderState :=
  ⟨by decide, ⟨_, rfl, rfl⟩, rfl⟩

theorem witness_DecoderRequestsChangeOnlyTheDecoder :
    isDecInstr (.decIngest 0x42) = true ∧
    (∃ t, exec (.decIngest 0x42) (inside 2 [0x41]) = .next t) ∧ storedByte 0x42 (inside 2 [0x41]) = some 0x42 ∧
    (∃ t, exec .wireEsc2End (escaping 2 [0x41]) = .next t) ∧ storedByte 0xFC (escaping 2 [0x41]) = some 0x03 ∧
    storedByte 0xFC (escaping 1 [0x41]) = none ∧ ∃ t, exec .wireEsc2End (escaping 1 [0x41]) = .next t :=
  ⟨rfl, ⟨_, rfl⟩, rfl, ⟨_, rfl⟩, rfl, rfl, ⟨_, rfl⟩⟩

theorem witness_NoRequestClearsTheBuffer :
    (readBuf (inside 2 [0x41]) 0).isSome = true ∧ (∃ t, exec .decReset (inside 2 [0x41]) = .next t) ∧
    (∃ t, exec .wireStart (inside 2 [0x41]) = .next t) ∧
    (∃ t, exec .wireEnd (inside 2 [0x41]) = .next t ∧ t.answer = delivered 1) ∧
    (∃ t, exec .wireEnd (escaping 2 [0x41]) = .next t ∧ t.answer = invalidEscapeAnswer) ∧
    ∃ t, exec (.decIngest 0x42) (inside 1 [0x41]) = .next t ∧ t.answer = bufferTooSmallAnswer :=
  ⟨rfl, ⟨_, rfl⟩, ⟨_, rfl⟩, ⟨_, rfl, rfl⟩, ⟨_, rfl, rfl⟩, ⟨_, rfl, rfl⟩⟩

theorem witness_FramingErrorsComeFromTheirCellsAndRecover :
    (∃ t r, exec (.decIngest 0xFE) (escaping 2 []) = .next t ∧ t.answer = .response r ∧ r.code = .invalidEscape) ∧
    ∃ t r, exec .wireEsc2Start (escaping 0 []) = .next t ∧ t.answer = .response r ∧ r.code = .bufferTooSmall :=
  ⟨⟨_, _, rfl, rfl, rfl⟩, _, _, rfl, rfl, rfl⟩

theorem witness_ResponseCodesComeFromTheirRequests :
    (∃ t r, exec .decReset (fresh 2) = .next t ∧ t.answer = .response r ∧ r.code = .ok) ∧
    (∃ t r, exec .wireEnd (inside 2 []) = .next t ∧ t.answer = .response r ∧ r.code = .messageReady) ∧
    (∃ t r, exec .decEoi (inside 2 []) = .next t ∧ t.answer = .response r ∧ r.code = .endOfInput) ∧
    (∃ t r, exec .encPull (fresh 2) = .next t ∧ t.answer = .response r ∧ r.code = .finished) ∧
    ∃ t r, exec (.detClassify 0) (fresh 2) = .next t ∧ t.answer = .response r ∧ r.code = .classified :=
  ⟨⟨_, _, rfl, rfl, rfl⟩, ⟨_, _, rfl, rfl, rfl⟩, ⟨_, _, rfl, rfl, rfl⟩, ⟨_, _, rfl, rfl, rfl⟩, _, _, rfl, rfl, rfl⟩

theorem witness_IngestIsTotal : (fresh 0).decState ≠ .illegal ∧ (escaping 1 [0x41]).decState ≠ .illegal := by decide

theorem witness_BufferHoldsTheFrameBeingAssembled :
    (fresh 2).decState = .waitingForStart ∧ (fresh 2).decCursor = 0 ∧
    (∃ log t, issueAll (feed [0x02, 0x41]) (fresh 2) = .next (log, t) ∧ t.decState = .insideMessage) ∧
    (∃ log t, issueAll [.wire 0x02, .wire 0x04] (fresh 2) = .next (log, t) ∧ t.decState = .insideMessageEscaping) ∧
    ∃ log t, issueAll (feed [0x03]) (fresh 2) = .next (log, t) ∧ t.decState = .waitingForStart :=
  ⟨rfl, rfl, ⟨_, _, rfl, rfl⟩, ⟨_, _, rfl, rfl⟩, _, _, rfl, rfl⟩

theorem witness_DeliveredMessageIsTheLastFrame :
    (fresh 1).decState = .waitingForStart ∧
    (∃ log t, issueAll (feed [0x02, 0x41, 0x03]) (fresh 1) = .next (log, t) ∧
      (answersOf log).getLast? = some (delivered 1)) ∧
    ∃ log t, issueAll (feed [0x02, 0x03]) (fresh 0) = .next (log, t) ∧ (answersOf log).getLast? = some (delivered 0) :=
  ⟨rfl, ⟨_, _, rfl, rfl⟩, _, _, rfl, rfl⟩

theorem witness_RoundTripDeliversThePayload :
    (escaping 1 [0x41]).faulted = none ∧ (escaping 1 [0x41]).decState ≠ .illegal ∧
    [0x02#8].length ≤ (escaping 1 [0x41]).params.capacity ∧ ([] : List Byte).length ≤ (fresh 0).params.capacity := by
  decide

theorem witness_OversizedFrameIsDroppedOnce :
    (fresh 1).faulted = none ∧ (fresh 1).decState ≠ .illegal ∧ (fresh 1).params.capacity < [0x41#8, 0x02].length ∧
    (fresh 0).params.capacity < [0x41#8].length := by decide

theorem witness_NoiseThenTwoFramesDeliversBoth :
    (fresh 2).faulted = none ∧ (fresh 2).decState = .waitingForStart ∧
    (0x02 : Byte) ∉ [0x00, 0x03, 0x04, 0xFD, 0x7E] ∧ [0x41#8, 0x03].length ≤ (fresh 2).params.capacity ∧
    [0x42#8].length ≤ (fresh 2).params.capacity := by decide

theorem witness_DecoderNeverWritesPastCapacity :
    (∃ log t, issueAll (feed [0x02, 0x41, 0x42]) (fresh 2) = .next (log, t) ∧ (readBuf t 1).isSome = true) ∧
    ∃ log t, issueAll (feed [0x02, 0x41]) (bounded 0) = .next (log, t) := ⟨⟨_, _, rfl, rfl⟩, _, _, rfl⟩

theorem witness_ResetLeavesTheSpecifiedState :
    (∃ prm fill, fresh 2 = State.resetOf prm fill) ∧ (∃ w p, decode (.request w p) = .ok (.decIngest 0x02)) ∧
    (∀ p, Instr.decIngest 0x02 ≠ .encStart p) ∧ (fresh 2).encPhase = .done ∧
    ∃ t, exec (.decIngest 0x02) (fresh 2) = .next t :=
  ⟨⟨_, _, rfl⟩, ⟨0x002#11, [], by decide⟩, by simp, rfl, _, rfl⟩

theorem witness_DeliveredSliceOutlivesTheNextIngest :
    (fresh 2).decState = .waitingForStart ∧
    (∃ log t, issueAll [encode (.decIngest 0x02), encode .decEoi, encode .encPull] (fresh 2) = .next (log, t)) ∧
    (inboundBytes [encode (.decIngest 0x02), encode .decEoi, encode .encPull]).length ≤ 1 ∧
    (∃ log t, issueAll [encode .decEoi, encode .decReset] (fresh 2) = .next (log, t)) ∧
    inboundBytes [encode .decEoi, encode .decReset] = [] := ⟨rfl, ⟨_, _, rfl⟩, by decide, ⟨_, _, rfl⟩, by decide⟩

theorem witness_EncoderAndDecoderDoNotInterfere :
    ∃ log t, issueAll [encode (.encStart [0x02]), .wire 0x02, encode .encPull, .wire 0x41] (fresh 2) = .next (log, t) :=
  ⟨_, _, rfl⟩

/-- A machine in the middle of a frame, with a request to come. -/
def midFrame : State := { inside 2 [0x41] with script := [.wire 0x42] }

theorem midFrame_inv : MachineInv midFrame where
  dec :=
    { legal := by decide, cursor_le := by decide, waiting_cursor := by decide, buf_wf := Memory.powerOn_wf _ _
      buf_full := by simp [midFrame, inside, fresh, readBuf], window_le := by decide }
  enc :=
    { cursor_le := (fresh_encInv 2).cursor_le, pay_wf := (fresh_encInv 2).pay_wf, pay_full := (fresh_encInv 2).pay_full
      pending := (fresh_encInv 2).pending, begin_cursor := (fresh_encInv 2).begin_cursor
      len_le := (fresh_encInv 2).len_le }
  no_fault := rfl

theorem witness_EveryStepKeepsTheInvariant : MachineInv midFrame ∧ ∃ t, step midFrame = .next t :=
  ⟨midFrame_inv, _, rfl⟩

theorem witness_InvariantStatesAlwaysStep : MachineInv midFrame := midFrame_inv

theorem witness_MarksAreNeverCleared :
    ∃ t, exec .decReset { fresh 2 with refused := true, faulted := some .bufferIndexOutOfRange } = .next t ∧
      { fresh 2 with refused := true, faulted := some .bufferIndexOutOfRange }.refused = true ∧
      { fresh 2 with refused := true, faulted := some .bufferIndexOutOfRange }.faulted.isSome = true :=
  ⟨_, rfl, rfl, rfl⟩

theorem witness_StepRunsTheDecodedRequest :
    midFrame.faulted = none ∧ midFrame.script = .wire 0x42 :: [] ∧ decode (.wire 0x42) = .ok (.wireData 0x42) ∧
    ({ fresh 2 with script := [.request 0x101 []] }.faulted = none ∧
      { fresh 2 with script := [.request 0x101 []] }.script = .request 0x101 [] :: [] ∧
      decode (.request 0x101 []) = .error .nonZeroData) ∧
    (fresh 2).faulted = none ∧ (fresh 2).script = [] := by decide

theorem witness_BufferWriteSetsOneByte :
    1 < (inside 2 [0x41]).params.capacity ∧ (inside 2 [0x41]).buf.wf ∧ (inside 2 [0x41]).params.capacity ≤ 2 ∧
    (fresh 0).params.capacity ≤ 0 := by decide

theorem witness_ResponsePackingKeepsEveryField :
    ({ code := .messageReady, data := 0, len := 7 } : Resp).len ≤ 7 ∧
    ({ code := .emit, data := 0xFD, len := 0 } : Resp).len ≤ 0 := by decide

theorem witness_LenBitsIsTheLeastWidth : 1 ≤ 3 ∧ 7 < 2 ^ 3 ∧ 1 ≤ 1 ∧ 0 < 2 ^ 1 := by decide

theorem witness_InstancesShareNothing :
    ∃ sys', systemStep 1 [fresh 2, midFrame, fresh 0] = .next sys' ∧
      [fresh 2, midFrame, fresh 0][1]? = some midFrame ∧ 0 ≠ 1 := ⟨_, rfl, rfl, by decide⟩

end Sys2Proof.Tests
end

namespace Sys2Proof.Machine

/-! ### What an instruction can do -/

/-- Everything an instruction can do: the byte it carries is ingested, or it is one of the other eight. -/
theorem exec_cases {i : Instr} {s t : State} (h : exec i s = .next t) :
    (∃ b, carriedByte i = some b ∧ t = ingest b s) ∨ (i = .decEoi ∧ t = decEoi s) ∨
    (i = .decReset ∧ t = decReset s) ∨ (∃ p, i = .encStart p ∧ t = encStart p s) ∨
    (i = .encPull ∧ t = encPull s) ∨
    (∃ b, i = .detClassify b ∧ t = respond .classified (classify b).code 0 s) ∨
    (∃ d, (i = .reserved011 d ∨ i = .reserved111 d) ∧ t = refuse .reservedOp s) := by
  rcases instr_cases i with ⟨b, hb⟩ | rfl | rfl | ⟨p, rfl⟩ | rfl | ⟨b, rfl⟩ | ⟨d, rfl⟩ | ⟨d, rfl⟩
  · rw [exec_of_carriedByte s hb] at h
    exact .inl ⟨b, hb, (Host.Outcome.next.inj h).symm⟩
  all_goals
    obtain rfl := Host.Outcome.next.inj h
    simp [carriedByte]

/-! ### Who writes the captured payload (spec/20_memory.md R34, spec/10_state.md R21) -/

section Payload

variable (b : Byte) (s : State)

@[simp] theorem ingest_pay : (ingest b s).pay = s.pay := by rw [ingest_frame]
@[simp] theorem ingest_encLen : (ingest b s).encLen = s.encLen := by rw [ingest_frame]
@[simp] theorem decEoi_pay : (decEoi s).pay = s.pay := by rw [decEoi_frame]
@[simp] theorem decEoi_encLen : (decEoi s).encLen = s.encLen := by rw [decEoi_frame]
@[simp] theorem decReset_pay : (decReset s).pay = s.pay := by rw [decReset_frame]
@[simp] theorem decReset_encLen : (decReset s).encLen = s.encLen := by rw [decReset_frame]
@[simp] theorem encPull_pay : (encPull s).pay = s.pay := by rw [encPull_frame]
@[simp] theorem encPull_encLen : (encPull s).encLen = s.encLen := by rw [encPull_frame]

end Payload

/-- No instruction but ENC_START writes PAY or ENC_LEN. -/
theorem exec_keeps_payload {i : Instr} {s t : State} (hi : ∀ p, i ≠ .encStart p) (h : exec i s = .next t) :
    t.pay = s.pay ∧ t.encLen = s.encLen := by
  rcases exec_cases h with ⟨_, _, rfl⟩ | ⟨_, rfl⟩ | ⟨_, rfl⟩ | ⟨p, e, _⟩ | ⟨_, rfl⟩ | ⟨_, _, rfl⟩ | ⟨_, _, rfl⟩
  any_goals simp
  exact absurd e (hi p)

/-- An admitted ENC_START captures its side-band operand. -/
theorem encStart_captures {p : List Byte} {s : State} (h : payloadFits p s = true) :
    (encStart p s).encLen = p.length ∧ ∀ i, (encStart p s).pay.read i = p[i]? := by
  rw [encStart_of_fits h]
  simp

/-- Settles O11: ENC_START copies its operand, and every other instruction keeps PAY and ENC_LEN by its frame. -/
theorem payloadIsCapturedAndKept : Obligations.PayloadIsCapturedAndKept := by
  refine ⟨fun p s t fits h => ?_, fun i s t => exec_keeps_payload⟩
  obtain rfl : encStart p s = t := Host.Outcome.next.inj h
  exact encStart_captures (payloadFits_iff.mpr fits)

/-! ### The write of BUF (spec/20_memory.md R37) -/

/-- Settles O55: the laws of a memory's write, at the index the capacity check lets through. -/
theorem bufferWriteSetsOneByte : Obligations.BufferWriteSetsOneByte := by
  intro s i v
  refine ⟨fun lt => ⟨_, memWriteBuf_of_lt v lt, rfl, ?written, fun a ne => ?others, ?canonical⟩,
    memWriteBuf_of_ge v⟩
  case written => exact Memory.read_write_same s.buf i v
  case others => exact Memory.read_write_of_ne s.buf v ne
  case canonical => exact Memory.write_wf i v

end Sys2Proof.Machine

namespace Sys2Proof.Machine

/-! ### The shape of a frame (spec/30_encoding.md R53, R54) -/

/-- A legal escape sequence keeps the shape of what follows it. -/
theorem bodyShaped_escape_cons {c : Byte} (h : escValid c = true) (l : List Byte) :
    bodyShaped (escapeByte :: c :: l) = bodyShaped l := by
  simp [bodyShaped, h]

/-- A byte that is no control byte keeps the shape of what follows it. -/
theorem bodyShaped_other_cons {b : Byte} (h : isControl b = false) (l : List Byte) :
    bodyShaped (b :: l) = bodyShaped l := by
  have ne : b ≠ escapeByte := (classify_other_iff.mp (isControl_eq_false_iff.mp h)).2.2
  cases l with
  | nil => simp [bodyShaped, h]
  | cons c r => simp [bodyShaped, h, ne]

/-- The complement of a control byte is the second byte of a legal escape (R70). -/
theorem escValid_comp_of_isControl {x : Byte} (h : isControl x = true) : escValid (comp x) = true := by
  simpa [escValid] using h

/-- A control byte is no second byte of a legal escape (R54). -/
theorem escValid_of_isControl {b : Byte} (h : isControl b = true) : escValid b = false :=
  isControl_comp_of_isControl h

theorem bodyShaped_wireBody (p : List Byte) : bodyShaped (wireBody p) = true := by
  induction p with
  | nil => rfl
  | cons x p ih =>
    cases h : isControl x with
    | false => simpa [wireImage_of_other h, bodyShaped_other_cons h] using ih
    | true =>
      simpa [wireImage_of_control h, bodyShaped_escape_cons (escValid_comp_of_isControl h)] using ih

/-- In a list of this shape every ESCAPE is the first byte of a legal escape sequence. -/
theorem escape_followed_of_bodyShaped {l : List Byte} (h : bodyShaped l = true) {k : Nat}
    (hk : l[k]? = some escapeByte) : ∃ c, l[k + 1]? = some c ∧ escValid c = true := by
  induction l using bodyShaped.induct generalizing k with
  | case1 => simp at hk
  | case2 b =>
    cases k with
    | zero =>
      obtain rfl : b = escapeByte := by simpa using hk
      exact absurd h (by decide)
    | succ k => simp at hk
  | case3 c r ih =>
    obtain ⟨valid, shaped⟩ : escValid c = true ∧ bodyShaped r = true := by simpa [bodyShaped] using h
    match k with
    | 0 => exact ⟨c, rfl, valid⟩
    | 1 =>
      obtain rfl : c = escapeByte := by simpa using hk
      exact absurd valid (by decide)
    | k + 2 => exact ih shaped hk
  | case4 b c r ne ih =>
    obtain ⟨-, shaped⟩ : isControl b = false ∧ bodyShaped (c :: r) = true := by
      simpa [bodyShaped, ne] using h
    cases k with
    | zero => exact absurd (by simpa using hk) ne
    | succ k => exact ih shaped hk

theorem frame_length (p : List Byte) : (frame p).length = p.length + controlCount p + 2 := by
  simp [frame, wireBody_length]

/-- Settles O21: the shape is kept by each wire image, and it says what follows an ESCAPE. -/
theorem frameHasItsShapeAndLength : Obligations.FrameHasItsShapeAndLength := by
  refine ⟨fun p => ⟨rfl, frame_length p, bodyShaped_wireBody p, ?start, ?finish, fun k hk => ?escape⟩, rfl⟩
  case start => exact fun h => (ne_delimiter_of_mem_wireBody h).1 rfl
  case finish => exact fun h => (ne_delimiter_of_mem_wireBody h).2 rfl
  case escape =>
    obtain ⟨c, hc, valid⟩ := escape_followed_of_bodyShaped (bodyShaped_wireBody p) hk
    exact ⟨c, hc, escValid_iff.mp valid⟩

/-! ### The escape second bytes (spec/40_detector.md R70, R74) -/

/-- The complement is the subtraction from 0xFF (R69). -/
theorem comp_toNat (b : Byte) : (comp b).toNat = 0xFF - b.toNat := by
  have h : comp b = ~~~b := by simp [comp, complementMask, ← BitVec.xor_allOnes]
  rw [h, BitVec.toNat_not]

/-- Settles O7: the laws of the detector, byte by byte, and the columns of its table. -/
theorem escapeSecondBytesAreTheThreeComplements : Obligations.EscapeSecondBytesAreTheThreeComplements := by
  refine ⟨fun b => ⟨isControl_iff, Iff.rfl, escValid_iff, fun h => ?control, comp_toNat b⟩,
    rfl, rfl, rfl, rfl, rfl, rfl, rfl, rfl, fun b => rfl⟩
  case control => exact ⟨isControl_comp_of_isControl h, escValid_of_isControl h⟩

end Sys2Proof.Machine

namespace Sys2Proof.Machine

/-! ### The control bytes, the complement and DET_CLASSIFY (spec/40_detector.md R67 to R71) -/

/-- is_control is the class test (R68). -/
theorem isControl_iff_classify_ne_other {b : Byte} : isControl b = true ↔ classify b ≠ .other := bne_iff_ne

/-- Settles O6: the laws of classify, class by class, and of is_control. -/
theorem classifyNamesTheControlBytes : Obligations.ClassifyNamesTheControlBytes := fun _ =>
  ⟨classify_start_iff, classify_finish_iff, classify_escape_iff, classify_other_iff,
    isControl_iff_classify_ne_other, isControl_iff⟩

/-- The XOR with 0xFF is the bitwise complement (R69). -/
theorem comp_eq_not (b : Byte) : comp b = ~~~b := by simp [comp, complementMask, ← BitVec.xor_allOnes]

/-- The complement inverts each bit of the byte (R69). -/
theorem getLsbD_comp (b : Byte) {i : Nat} (hi : i < 8) : (comp b).getLsbD i = !b.getLsbD i := by
  simp [comp_eq_not, hi]

/-- The complement has no fixed point: the lowest bit differs. -/
theorem comp_ne (b : Byte) : comp b ≠ b := fun e => by
  have h : (comp b).getLsbD 0 = !b.getLsbD 0 := getLsbD_comp b (by decide)
  simp [e] at h

/-- Settles O8: the complement bit by bit, its own inverse, and the bit in which it differs from its operand. -/
theorem complementIsAnInvolutionWithoutFixedPoint : Obligations.ComplementIsAnInvolutionWithoutFixedPoint := fun b =>
  ⟨rfl, fun _ => getLsbD_comp b, comp_comp b, comp_ne b⟩

/-- The class code of a byte (30_encoding.md R62), by the order of the tests in classify. -/
theorem code_classify (b : Byte) :
    (classify b).code = if b = 0x02 then 1 else if b = 0x03 then 2 else if b = 0x04 then 3 else 0 := by
  rw [classify]
  simp only [apply_ite ByteClass.code]
  rfl

theorem exec_detClassify (b : Byte) (s : State) :
    exec (.detClassify b) s = .next (respond .classified (classify b).code 0 s) := rfl

/-- Settles O9: DET_CLASSIFY writes only the answer, and its data is the class code. -/
theorem detClassifyAnswersTheClassCode : Obligations.DetClassifyAnswersTheClassCode := by
  intro b s
  rw [exec_detClassify, code_classify]
  rfl

end Sys2Proof.Machine

namespace Sys2Proof.Machine

/-! ### One pull, phase by phase (spec/41_encoder.md R77 to R82) -/

theorem exec_encPull (s : State) : exec .encPull s = .next (encPull s) := rfl

/-- Settles O12, by the law of a pull in phase Begin. -/
theorem pullInBeginEmitsStart : Obligations.PullInBeginEmitsStart := fun s phase => by
  rw [exec_encPull, encPull_begin phase]
  rfl

/-- Settles O13, by the law of a pull in phase Encoding with nothing remaining. -/
theorem pullWithNothingRemainingEmitsEnd : Obligations.PullWithNothingRemainingEmitsEnd := fun s phase atEnd => by
  rw [exec_encPull, encPull_end phase atEnd]
  rfl

/-- Settles O14: the three bytes are the control bytes. -/
theorem pullAtControlByteEmitsEscape : Obligations.PullAtControlByteEmitsEscape := fun s b phase lt read control => by
  rw [exec_encPull, encPull_control phase lt read (isControl_iff.mpr control)]
  rfl

/-- Settles O15: a byte that is none of the three is no control byte. -/
theorem pullAtOrdinaryByteEmitsItVerbatim : Obligations.PullAtOrdinaryByteEmitsItVerbatim := by
  intro s b phase lt read notStart notEnd notEscape
  have ordinary : isControl b = false :=
    isControl_eq_false_iff.mpr (classify_other_iff.mpr ⟨notStart, notEnd, notEscape⟩)
  rw [exec_encPull, encPull_ordinary phase lt read ordinary]
  rfl

/-- Settles O16: the complement is the XOR with 0xFF, on either side. -/
theorem pullAfterEscapeEmitsTheComplement : Obligations.PullAfterEscapeEmitsTheComplement := fun s phase => by
  rw [exec_encPull, encPull_escaped phase, BitVec.xor_comm]
  rfl

/-- Settles O17, by the law of a pull in phase Done. -/
theorem pullWhenDoneAnswersFinished : Obligations.PullWhenDoneAnswersFinished := fun s phase => by
  rw [exec_encPull, encPull_done phase]
  rfl

end Sys2Proof.Machine

namespace Sys2Proof.Machine

/-! ### Successive pulls and their answers (spec/41_encoder.md R83) -/

/-- Successive pulls lead from one state to another and give these answers. -/
inductive Pulls : List Answer → State → State → Prop where
  | nil (s : State) : Pulls [] s s
  | cons {s u t : State} {a : Answer} {as : List Answer} (no_fault : s.faulted = none) (pull : encPull s = u)
      (answer : u.answer = a) (rest : Pulls as u t) : Pulls (a :: as) s t

section Pulls

variable {s t u : State} {a : Answer} {as bs : List Answer}

theorem Pulls.single (no_fault : s.faulted = none) (pull : encPull s = u) (answer : u.answer = a) : Pulls [a] s u :=
  .cons no_fault pull answer (.nil u)

theorem Pulls.append (h : Pulls as s t) (k : Pulls bs t u) : Pulls (as ++ bs) s u := by
  induction h with
  | nil => exact k
  | cons no_fault pull answer _ ih => exact .cons no_fault pull answer (ih k)

/-- Such pulls are what `drain` issues, one request for each answer. -/
theorem Pulls.issueAll_drain (h : Pulls as s t) :
    ∃ log, issueAll (drain as.length) s = .next (log, t) ∧ answersOf log = as := by
  induction h with
  | nil s => exact ⟨[], rfl, rfl⟩
  | cons no_fault pull answer _ ih =>
    subst pull answer
    obtain ⟨log, run, answers⟩ := ih
    exact ⟨_, issueAll_cons (issue_pull no_fault) run, congrArg (_ :: ·) answers⟩

theorem decView_encPull (s : State) : decView (encPull s) = decView s := by
  rw [encPull_frame]
  rfl

/-- No pull touches DEC (10_state.md R32). -/
theorem Pulls.decView_eq (h : Pulls as s t) : decView t = decView s := by
  induction h with
  | nil => rfl
  | cons _ pull _ _ ih =>
    subst pull
    exact ih.trans (decView_encPull _)

end Pulls

/-! ### The payload that remains to be sent (spec/41_encoder.md R76) -/

/-- ENC is in phase Encoding, and `q` is what PAY holds from ENC_CURSOR on: `remaining` of R76. -/
structure Sending (q : List Byte) (s : State) : Prop where
  phase : s.encPhase = .encoding
  no_fault : s.faulted = none
  len_eq : s.encLen = s.encCursor + q.length
  read : ∀ i, s.pay.read (s.encCursor + i) = q[i]?

section Sending

variable {s : State} {x : Byte} {q : List Byte}

/-- START opens the captured payload (R75, R77). -/
theorem sending_after_begin {p : List Byte} (fits : payloadFits p s = true) (no_fault : s.faulted = none) :
    Sending p (pullBegin (encStart p s)) := by
  rw [encStart_of_fits fits]
  exact { phase := rfl, no_fault, len_eq := (Nat.zero_add _).symm, read := fun i => by simp [pullBegin] }

theorem Sending.cursor_eq (h : Sending [] s) : s.encCursor = s.encLen := h.len_eq.symm

theorem Sending.cursor_lt (h : Sending (x :: q) s) : s.encCursor < s.encLen := by
  rw [h.len_eq, List.length_cons]
  omega

theorem Sending.read_cursor (h : Sending (x :: q) s) : s.pay.read s.encCursor = some x := h.read 0

/-- An ordinary byte is sent by one pull (R80). -/
theorem Sending.after_verbatim (h : Sending (x :: q) s) : Sending q (pullVerbatim x s) where
  phase := h.phase
  no_fault := h.no_fault
  len_eq := h.len_eq.trans (Nat.add_right_comm s.encCursor q.length 1)
  read i := (congrArg s.pay.read (Nat.add_right_comm s.encCursor 1 i)).trans (h.read (i + 1))

/-- A control byte is sent by two pulls (R79, R81). -/
theorem Sending.after_complement (h : Sending (x :: q) s) : Sending q (pullComplement (pullEscape x s)) where
  phase := rfl
  no_fault := h.no_fault
  len_eq := h.after_verbatim.len_eq
  read := h.after_verbatim.read

/-- The next byte of the payload goes out as its wire image (30_encoding.md R52). -/
theorem Sending.pulls_wireImage (h : Sending (x :: q) s) :
    ∃ t, Pulls ((wireImage x).map emitted) s t ∧ Sending q t := by
  cases control : isControl x with
  | false =>
    rw [wireImage_of_other control]
    have verbatim : encPull s = pullVerbatim x s := encPull_ordinary h.phase h.cursor_lt h.read_cursor control
    exact ⟨_, .single h.no_fault verbatim rfl, h.after_verbatim⟩
  | true =>
    rw [wireImage_of_control control]
    have escape : encPull s = pullEscape x s := encPull_control h.phase h.cursor_lt h.read_cursor control
    have complement : encPull (pullEscape x s) = pullComplement (pullEscape x s) := encPull_escaped rfl
    exact ⟨_, .cons h.no_fault escape rfl (.single h.no_fault complement rfl), h.after_complement⟩

/-- What remains of the payload goes out, then END, and the sequence is done. -/
theorem Sending.pulls_body (h : Sending q s) :
    ∃ t, Pulls ((wireBody q ++ [endByte]).map emitted) s t ∧ t.encPhase = .done ∧ t.faulted = none := by
  induction q generalizing s with
  | nil => exact ⟨_, .single h.no_fault (encPull_end h.phase h.cursor_eq) rfl, rfl, h.no_fault⟩
  | cons x q ih =>
    obtain ⟨t, image, sending⟩ := h.pulls_wireImage
    obtain ⟨u, body, ends⟩ := ih sending
    refine ⟨u, ?_, ends⟩
    rw [wireBody_cons, List.append_assoc, List.map_append]
    exact image.append body

end Sending

/-! ### From ENC_START to FINISHED (spec/41_encoder.md R83) -/

/-- Once the sequence is done, every pull answers FINISHED (R82). -/
theorem pulls_finished {s : State} (n : Nat) (phase : s.encPhase = .done) (no_fault : s.faulted = none) :
    ∃ t, Pulls (List.replicate n finishedAnswer) s t ∧ t.encPhase = .done := by
  induction n generalizing s with
  | zero => exact ⟨s, .nil s, phase⟩
  | succ n ih =>
    obtain ⟨t, rest, t_done⟩ := ih (s := pullDone s) phase no_fault
    exact ⟨t, .cons no_fault (encPull_done phase) rfl rest, t_done⟩

/-- After an admitted ENC_START the pulls emit the frame of its payload. -/
theorem pulls_frame {s : State} {p : List Byte} (fits : payloadFits p s = true) (no_fault : s.faulted = none) :
    ∃ t, Pulls ((frame p).map emitted) (encStart p s) t ∧ t.encPhase = .done ∧ t.faulted = none := by
  obtain ⟨t, body, ends⟩ := (sending_after_begin fits no_fault).pulls_body
  rw [encStart_of_fits fits] at body ⊢
  exact ⟨t, .cons no_fault (encPull_begin rfl) rfl body, ends⟩

theorem issue_encStart {s : State} (p : List Byte) (no_fault : s.faulted = none) :
    issue (encode (.encStart p)) s = .next (encStart p s) := by
  have decoded : decode (encode (.encStart p)) = .ok (.encStart p) := by simp [encode, decode]
  rw [issue_decoded no_fault decoded]
  rfl

theorem decView_encStart (p : List Byte) (s : State) : decView (encStart p s) = decView s := by
  rw [encStart_frame]
  rfl

/-- Settles O20: the pulls of the frame, by induction on the payload, then those that answer FINISHED. -/
theorem pullsEmitExactlyTheFrame : Obligations.PullsEmitExactlyTheFrame := by
  intro p n s no_fault bound
  have fits : payloadFits p s = true := payloadFits_iff.mpr bound
  obtain ⟨u, sent, u_done, u_no_fault⟩ := pulls_frame fits no_fault
  obtain ⟨t, finished, t_done⟩ := pulls_finished n u_done u_no_fault
  have pulls := sent.append finished
  obtain ⟨log, run, answers⟩ := pulls.issueAll_drain
  have count : ((frame p).map emitted ++ List.replicate n finishedAnswer).length =
      p.length + controlCount p + 2 + n := by simp [frame_length]
  have started : (encStart p s).answer = okAnswer := by
    rw [encStart_of_fits fits]
    rfl
  have dec : decView t = decView s := pulls.decView_eq.trans (decView_encStart p s)
  obtain ⟨decState, decCursor, buf, -⟩ : t.decState = s.decState ∧ t.decCursor = s.decCursor ∧
      t.buf = s.buf ∧ t.window = s.window := by simpa [decView] using dec
  refine ⟨_, t, issueAll_cons (issue_encStart p no_fault) (count ▸ run), ?_, rfl, bodyShaped_wireBody p, t_done,
    decState, decCursor, buf⟩
  simp [answersOf, started, ← answers]

end Sys2Proof.Machine

namespace Sys2Proof.Machine

/-! ### DEC_INGEST, cell by cell (spec/42_decoder.md R88 to R100) -/

theorem exec_decIngest (b : Byte) (s : State) : exec (.decIngest b) s = .next (ingest b s) := rfl

/-- Settles O24, by the law of the START column; the window is the closed one. -/
theorem startAlwaysResynchronises : Obligations.StartAlwaysResynchronises := fun s legal => by
  refine ⟨0, ?_⟩
  rw [exec_decIngest, ingest_start legal]
  rfl

/-- Settles O25, by the law of noise. -/
theorem noiseOutsideAFrameIsIgnored : Obligations.NoiseOutsideAFrameIsIgnored := fun b s notStart waiting => by
  refine ⟨0, ?_⟩
  rw [exec_decIngest, ingest_noise waiting notStart]
  rfl

/-- Settles O27: the cell does not look at the cursor. -/
theorem escapeInsideAMessageBeginsAnEscape : Obligations.EscapeInsideAMessageBeginsAnEscape := fun s inMessage => by
  refine ⟨0, ?_⟩
  rw [exec_decIngest, ingest_escape inMessage]
  rfl

/-- Settles O30: a byte that is none of the three second bytes makes no valid escape. -/
theorem malformedEscapeDropsTheFrame : Obligations.MalformedEscapeDropsTheFrame := by
  intro b s inEscape notStart notFB notFC notFD
  have invalid : escValid b = false :=
    Bool.eq_false_iff.mpr fun valid => (escValid_iff.mp valid).elim notFB (·.elim notFC notFD)
  refine ⟨0, ?_⟩
  rw [exec_decIngest, ingest_malformed inEscape notStart invalid]
  rfl

/-! ### The cells that write a byte (spec/42_decoder.md R93, R94, R98, R99) -/

section Data

variable {b v : Byte} {s : State}

/-- In a cell that writes the byte `v`, with room: it goes to DEC_CURSOR, every other byte stays, and the cursor
advances (R93, R98). -/
theorem exec_decIngest_of_room (cell : ingest b s = ingestData v (closeWindow s))
    (room : s.decCursor < s.params.capacity) :
    ∃ w t, exec (.decIngest b) s = .next t ∧
      t = { s with
        buf := t.buf, decCursor := s.decCursor + 1, decState := .insideMessage, answer := continued, window := w } ∧
      readBuf t s.decCursor = some v ∧ ∀ a, a ≠ s.decCursor → readBuf t a = readBuf s a := by
  rw [exec_decIngest, cell, ingestData_of_room (s := closeWindow s) room]
  refine ⟨0, _, rfl, rfl, ?written, fun a ne => ?others⟩
  case written => exact Memory.read_write_same s.buf s.decCursor v
  case others => exact Memory.read_write_of_ne s.buf v ne

/-- In a cell that writes a byte, with a full buffer: nothing is written and the frame is dropped (R94, R99). -/
theorem exec_decIngest_of_full (cell : ingest b s = ingestData v (closeWindow s))
    (full : s.params.capacity ≤ s.decCursor) :
    ∃ w, exec (.decIngest b) s = .next { s with
      decCursor := 0, decState := .waitingForStart, answer := bufferTooSmallAnswer, window := w } := by
  rw [exec_decIngest, cell, ingestData_of_full (s := closeWindow s) full]
  exact ⟨0, rfl⟩

end Data

/-- Settles O28: the cell writes the byte itself, and DEC_STATE is InsideMessage already. -/
theorem dataByteWithRoomIsWrittenAtTheCursor : Obligations.DataByteWithRoomIsWrittenAtTheCursor := by
  intro b s notStart notEnd notEscape inMessage room
  have cell := ingest_data inMessage (classify_other_iff.mpr ⟨notStart, notEnd, notEscape⟩)
  obtain ⟨w, t, run, frame, reads⟩ := exec_decIngest_of_room cell room
  rw [← inMessage] at frame
  exact ⟨w, t, run, frame, reads⟩

/-- Settles O29: the cell would write the byte itself. -/
theorem dataByteAtAFullBufferDropsTheFrame : Obligations.DataByteAtAFullBufferDropsTheFrame := by
  intro b s notStart notEnd notEscape inMessage full
  have cell := ingest_data inMessage (classify_other_iff.mpr ⟨notStart, notEnd, notEscape⟩)
  exact exec_decIngest_of_full cell full.ge

/-- Settles O31: the cell writes the complement of a valid second byte. -/
theorem validEscapeWithRoomWritesTheOriginalByte : Obligations.ValidEscapeWithRoomWritesTheOriginalByte :=
  fun _ _ inEscape second room => exec_decIngest_of_room (ingest_escaped inEscape (escValid_iff.mpr second)) room

/-- Settles O32: the cell would write the complement of a valid second byte. -/
theorem validEscapeAtAFullBufferDropsTheFrame : Obligations.ValidEscapeAtAFullBufferDropsTheFrame :=
  fun _ _ inEscape second full => exec_decIngest_of_full (ingest_escaped inEscape (escValid_iff.mpr second)) full.ge

end Sys2Proof.Machine

namespace Sys2Proof.Machine

/-! ### Phase Done, from reset until the first ENC_START (spec/70_reset_and_hazards.md R120, R123) -/

section Phase

variable (b : Byte) (s : State)

@[simp] theorem ingest_encPhase : (ingest b s).encPhase = s.encPhase := by rw [ingest_frame]
@[simp] theorem decEoi_encPhase : (decEoi s).encPhase = s.encPhase := by rw [decEoi_frame]
@[simp] theorem decReset_encPhase : (decReset s).encPhase = s.encPhase := by rw [decReset_frame]

end Phase

/-- A pull in phase Done stays there (R82). -/
theorem encPull_keeps_done {s : State} (done : s.encPhase = .done) : (encPull s).encPhase = .done := by
  rw [encPull_done done]
  exact done

/-- Phase Done is left by ENC_START alone: a pull stays in it, and no other instruction writes ENC_PHASE. -/
theorem exec_keeps_done {i : Instr} {s t : State} (hi : ∀ p, i ≠ .encStart p) (done : s.encPhase = .done)
    (h : exec i s = .next t) : t.encPhase = .done := by
  rcases exec_cases h with ⟨_, _, rfl⟩ | ⟨_, rfl⟩ | ⟨_, rfl⟩ | ⟨p, e, _⟩ | ⟨_, rfl⟩ | ⟨_, _, rfl⟩ | ⟨_, _, rfl⟩
  · exact (ingest_encPhase _ s).trans done
  · exact (decEoi_encPhase s).trans done
  · exact (decReset_encPhase s).trans done
  · exact absurd e (hi p)
  · exact encPull_keeps_done done
  · exact (respond_encPhase s _ _ _).trans done
  · exact (refuse_encPhase s _).trans done

/-- Settles O49: the fields of the reset state, the law of a pull in phase Done, and that only ENC_START leaves it. -/
theorem resetLeavesTheSpecifiedState : Obligations.ResetLeavesTheSpecifiedState := by
  refine ⟨?fromReset, ⟨_, _, rfl⟩, fun _ _ _ _ => exec_keeps_done, pullWhenDoneAnswersFinished⟩
  case fromReset =>
    rintro prm fill s rfl
    exact ⟨rfl, rfl, rfl, rfl, rfl, rfl, rfl, rfl,
      pullWhenDoneAnswersFinished _ (resetOf_encPhase prm fill)⟩

end Sys2Proof.Machine

namespace Sys2Proof

/-! ### Encoding and decoding are inverse (spec/30_encoding.md R49 to R58) -/

theorem BitVec3.exhaust (op : BitVec 3) :
    op = 0 ∨ op = 1 ∨ op = 2 ∨ op = 3 ∨ op = 4 ∨ op = 5 ∨ op = 6 ∨ op = 7 := by
  revert op
  decide

/-- A symbol without a row of its own is WIRE_DATA (R53). -/
theorem decodeWire_of_dataSymbolOk {d : Byte} (h : dataSymbolOk d = true) : decodeWire d = .wireData d := by
  have own : d ≠ 0x02#8 ∧ d ≠ 0x03#8 ∧ d ≠ 0x04#8 ∧ d ≠ 0xFD#8 ∧ d ≠ 0xFC#8 ∧ d ≠ 0xFB#8 := by
    simpa [dataSymbolOk, ownRowSymbols] using h
  simp [decodeWire, own]

/-- Settles O2, row by row: the laws of the request word's fields, and WIRE_DATA as the row of last resort. -/
theorem decodeOfEncodeIsTheInstruction : Obligations.DecodeOfEncodeIsTheInstruction := by
  intro i wf
  cases i with
  | wireData d => exact congrArg Except.ok (decodeWire_of_dataSymbolOk wf)
  | wireStart | wireEnd | wireEscape | wireEsc2Start | wireEsc2End | wireEsc2Escape => rfl
  | decIngest | decEoi | decReset | encStart | encPull | detClassify | reserved011 | reserved111 =>
    simp [encode, decode_request]

/-- A wire symbol is the word of the row it decodes to, and that row admits it. -/
theorem decodeWire_spec (b : Byte) : (decodeWire b).wf = true ∧ encode (decodeWire b) = .wire b := by
  by_cases data : dataSymbolOk b = true
  · rw [decodeWire_of_dataSymbolOk data]
    exact ⟨data, rfl⟩
  · have own : b ∈ ownRowSymbols := by simpa [dataSymbolOk] using data
    simp only [ownRowSymbols, List.mem_cons, List.not_mem_nil, or_false] at own
    rcases own with rfl | rfl | rfl | rfl | rfl | rfl <;> exact ⟨rfl, rfl⟩

/-- What a request word that decodes says of the instruction: it is well formed, and its word is that word, with the
side-band of ENC_START and with none for any other (R59, log 13). -/
theorem decodeRequest_ok {w : ReqWord} {p : List Byte} {i : Instr} (h : decodeRequest w p = .ok i) :
    i.wf = true ∧ ((i = .encStart p ∧ encode i = .request w p) ∨
      ((∀ q, i ≠ .encStart q) ∧ encode i = .request w [])) := by
  rw [← packReq_reqOp_reqData w] at h ⊢
  generalize reqOp w = op at h ⊢
  generalize reqData w = d at h ⊢
  rcases BitVec3.exhaust op with rfl | rfl | rfl | rfl | rfl | rfl | rfl | rfl <;>
    simp [withoutData_ok] at h <;>
    grind [encode, Instr.wf]

/-- Settles O3: the request word by its fields, the wire symbol by its row. -/
theorem encodeOfDecodeIsTheWord : Obligations.EncodeOfDecodeIsTheWord := by
  refine ⟨fun w p i h => ?word, fun w p q h => ?sideBand, fun b i h => ?symbol⟩
  case word =>
    obtain ⟨wf, ⟨-, e⟩ | ⟨-, e⟩⟩ := decodeRequest_ok h
    · exact ⟨wf, .inl e⟩
    · exact ⟨wf, .inr e⟩
  case sideBand =>
    obtain ⟨-, ⟨e, -⟩ | ⟨ne, -⟩⟩ := decodeRequest_ok h
    · exact Instr.encStart.inj e
    · exact absurd rfl (ne q)
  case symbol =>
    obtain rfl : decodeWire b = i := Except.ok.inj h
    exact decodeWire_spec b

/-- Settles O1: each word is written out, so the decoder computes. -/
theorem writtenOutWordsDecode : Obligations.WrittenOutWordsDecode :=
  ⟨rfl, rfl, rfl, rfl, rfl, rfl, rfl, rfl, rfl, rfl, rfl, rfl, rfl, rfl, rfl, rfl, rfl, rfl, rfl⟩

end Sys2Proof

namespace Sys2Proof

/-! ### The request words that are admitted (spec/30_encoding.md R64) -/

/-- The request word is one of the six requests. -/
def admits (w : ReqWord) : Bool :=
  match decode (.request w []) with
  | .ok (.reserved011 _) | .ok (.reserved111 _) | .error _ => false
  | .ok _ => true

/-- An op with an operand admits every data field, one without admits 0, and a reserved op none (R63). -/
theorem admits_packReq (op : BitVec 3) (d : Byte) :
    admits (packReq op d) = decide (op = 0 ∨ op = 6 ∨ (op ≠ 3 ∧ op ≠ 7 ∧ d = 0)) := by
  by_cases zero : d = 0#8
  · rcases BitVec3.exhaust op with rfl | rfl | rfl | rfl | rfl | rfl | rfl | rfl <;>
      simp [admits, decode_request, zero]
  · rcases BitVec3.exhaust op with rfl | rfl | rfl | rfl | rfl | rfl | rfl | rfl <;>
      simp [admits, decode_request, withoutData_of_ne, zero]

/-- How many data fields an op admits. -/
def admittedBy (op : Nat) : Nat := (List.range 256).countP (fun d => admits (BitVec.ofNat 11 (256 * op + d)))

/-- Counting over whole ops, one op after the other. -/
theorem countP_range_ops (n : Nat) :
    (List.range (256 * n)).countP (fun k => admits (BitVec.ofNat 11 k)) =
      ((List.range n).map admittedBy).sum := by
  induction n with
  | zero => rfl
  | succ n ih =>
    rw [List.sum_range_succ, ← ih, Nat.mul_succ, List.range_add, List.countP_append, List.countP_map]
    rfl

theorem ofNat_eq_packReq (op : Nat) {d : Nat} (h : d < 256) :
    BitVec.ofNat 11 (256 * op + d) = packReq (BitVec.ofNat 3 op) (BitVec.ofNat 8 d) := by
  apply BitVec.eq_of_toNat_eq
  simp only [packReq, BitVec.toNat_append, BitVec.toNat_ofNat]
  rw [← Nat.shiftLeft_add_eq_or_of_lt (by omega)]
  omega

theorem admittedBy_eq (op : Nat) :
    admittedBy op = (List.range 256).countP (fun d =>
      op % 8 = 0 ∨ op % 8 = 6 ∨ (op % 8 ≠ 3 ∧ op % 8 ≠ 7 ∧ d = 0)) := by
  refine List.countP_congr fun d mem => ?_
  have lt : d < 256 := List.mem_range.mp mem
  simp [ofNat_eq_packReq op lt, admits_packReq, ← BitVec.toNat_inj, Nat.mod_eq_of_lt lt]

/-- An op with an operand admits 256 data fields, one without admits 1, and a reserved op none. -/
theorem admitted_ops : (List.range 8).map admittedBy = [256, 1, 1, 0, 1, 1, 256, 0] := by
  have one : (List.range 256).countP (fun d => decide (d = 0)) = 1 := by
    simpa [List.count_eq_countP, beq_eq_decide] using
      List.count_eq_one_of_mem List.nodup_range (List.mem_range.mpr (show 0 < 256 by decide))
  have ops : List.range 8 = [0, 1, 2, 3, 4, 5, 6, 7] := rfl
  simp [ops, admittedBy_eq, one]

/-- 516 words are admitted (R64). -/
theorem admitted_count : (List.range 2048).countP (fun k => admits (BitVec.ofNat 11 k)) = 516 :=
  (countP_range_ops 8).trans (congrArg List.sum admitted_ops)

theorem exec_reserved011 (d : Byte) (s : Machine.State) :
    Machine.exec (.reserved011 d) s = .next (Machine.refuse .reservedOp s) := rfl

theorem exec_reserved111 (d : Byte) (s : Machine.State) :
    Machine.exec (.reserved111 d) s = .next (Machine.refuse .reservedOp s) := rfl

/-- Settles O4, op by op; the count is 256 for each op with an operand and 1 for each without. -/
theorem requestDecoderFollowsTheOpTable : Obligations.RequestDecoderFollowsTheOpTable := by
  refine ⟨fun w => ⟨_, _, (packReq_reqOp_reqData w).symm⟩, fun d p => ?ops,
    fun d s => ⟨exec_reserved011 d s, exec_reserved111 d s⟩, ?count⟩
  case ops => simp [decode_request, withoutData]
  case count =>
    rw [← List.countP_eq_length_filter]
    exact admitted_count

end Sys2Proof

namespace Sys2Proof.Machine

/-! ### Requests and steps (spec/30_encoding.md R63, spec/00_scope.md R7) -/

theorem exec_encStart (p : List Byte) (s : State) : exec (.encStart p) s = .next (encStart p s) := rfl

/-- A payload longer than the bound is not admitted (R59). -/
theorem payloadFits_eq_false {s : State} {p : List Byte} {m : Nat} (bound : s.params.maxPayloadLen = some m)
    (long : m < p.length) : payloadFits p s = false :=
  Bool.eq_false_iff.mpr fun fits => Nat.not_le.mpr long (payloadFits_iff.mp fits m bound)

/-- Settles O10, by the two laws of ENC_START. -/
theorem encStartBeginsANewSequence : Obligations.EncStartBeginsANewSequence := by
  refine fun p s => ⟨fun bound => ?fits, fun m bound long => ?long⟩
  case fits =>
    rw [exec_encStart, encStart_of_fits (payloadFits_iff.mpr bound)]
    rfl
  case long =>
    rw [exec_encStart, encStart_of_too_long (payloadFits_eq_false bound long)]
    rfl

/-- Settles O5: the reserved ops refuse by their meaning, non-zero data by the decoder, a long payload by ENC_START. -/
theorem refusedRequestsSetTheMarkAlone : Obligations.RefusedRequestsSetTheMarkAlone := by
  refine ⟨fun d s => ⟨exec_reserved011 d s, exec_reserved111 d s⟩, fun s d p no_fault =>
    ⟨fun op mem => ?reserved, fun op mem ne => ?data, fun m bound long => ?long⟩⟩
  case reserved =>
    rcases List.mem_pair.mp mem with rfl | rfl
    · exact issue_decoded no_fault ((decode_request _ p).trans (decode_op3 d p))
    · exact issue_decoded no_fault ((decode_request _ p).trans (decode_op7 d p))
  case data =>
    have rejected : decode (.request (packReq op d) p) = .error .nonZeroData := by
      simp only [List.mem_cons, List.not_mem_nil, or_false] at mem
      rcases mem with rfl | rfl | rfl | rfl <;> simp [decode_request, withoutData_of_ne _ ne]
    exact issue_rejected no_fault rejected
  case long =>
    have decoded : decode (.request (packReq 0b100 0) p) = .ok (.encStart p) := by simp [decode_request]
    rw [issue_decoded no_fault decoded]
    exact (encStartBeginsANewSequence p s).2 m bound long

/-- Settles O54, by the three laws of a step. -/
theorem stepRunsTheDecodedRequest : Obligations.StepRunsTheDecodedRequest := fun _ no_fault =>
  ⟨fun _ _ _ script decoded => step_decoded no_fault script decoded,
    fun _ _ _ script rejected => step_rejected no_fault script rejected, step_idle no_fault⟩

/-! ### The widths and bits of the status indications -/

/-- Settles O58: four names and four values of two bits. -/
theorem stateEncodingsAreOneToOne : Obligations.StateEncodingsAreOneToOne := by
  refine ⟨fun d => ?_, by decide, fun e => ?_, by decide, rfl, rfl, rfl, rfl, rfl, rfl, rfl, rfl⟩
  · cases d <;> rfl
  · cases e <;> rfl

/-- Settles O57: LEN_BITS is one more than the binary logarithm. -/
theorem lenBitsIsTheLeastWidth : Obligations.LenBitsIsTheLeastWidth := by
  refine fun cap => ⟨Nat.succ_pos _, Nat.lt_log2_self, fun n pos lt => ?_⟩
  by_cases zero : cap = 0
  · simpa [lenBits, zero] using pos
  · exact (Nat.log2_lt zero).mpr lt

/-- Settles O56: each field is a part of the concatenation, and a length within CAPACITY fits its width. -/
theorem responsePackingKeepsEveryField : Obligations.ResponsePackingKeepsEveryField := by
  intro cap r within
  have fits : r.len < 2 ^ lenBits cap := within.trans_lt (lenBitsIsTheLeastWidth cap).2.1
  refine ⟨BitVec.extractLsb'_append_eq_right, ?data, ?len⟩
  case data =>
    rw [Resp.pack, BitVec.extractLsb'_append_eq_of_le (by decide)]
    exact BitVec.extractLsb'_append_eq_right
  case len =>
    rw [Resp.pack, BitVec.extractLsb'_append_eq_of_le (by decide), BitVec.extractLsb'_append_eq_of_le (by decide)]
    simp [Nat.mod_eq_of_lt fits]

end Sys2Proof.Machine

namespace Sys2Proof.Machine

/-! ### The transition table as a relation (spec/42_decoder.md R86) -/

/-- In the state `s` the inbound byte stands for a payload byte: an ordinary byte for itself, the second byte of an
escape for its complement (R93, R98). -/
inductive Carries (s : State) : Byte → Byte → Prop where
  | plain {b : Byte} (inMessage : s.decState = .insideMessage) (ordinary : classify b = .other) : Carries s b b
  | escaped {b : Byte} (inEscape : s.decState = .insideMessageEscaping) (valid : escValid b = true) :
      Carries s b (comp b)

/-- Everything that ingesting the byte `b` in the state `s` can do, and from which cells. -/
inductive Ingested (b : Byte) (s : State) : State → Prop where
  | faults (illegal : s.decState = .illegal) : Ingested b s (raiseFault .illegalDecoderState s)
  | starts (legal : s.decState ≠ .illegal) (start : b = 0x02) : Ingested b s (ingestStart (closeWindow s))
  | ignores (waiting : s.decState = .waitingForStart) (notStart : b ≠ 0x02) :
      Ingested b s (ingestNoise (closeWindow s))
  | delivers (inMessage : s.decState = .insideMessage) (finish : b = 0x03) : Ingested b s (ingestEnd (closeWindow s))
  | escapes (inMessage : s.decState = .insideMessage) (escape : b = 0x04) :
      Ingested b s (ingestEscape (closeWindow s))
  | writes {v : Byte} (carries : Carries s b v) (room : s.decCursor < s.params.capacity) :
      Ingested b s (respond .cont 0 0 { closeWindow s with
        buf := s.buf.write s.decCursor v, decCursor := s.decCursor + 1, decState := .insideMessage })
  | overflows {v : Byte} (carries : Carries s b v) (full : s.params.capacity ≤ s.decCursor) :
      Ingested b s (raiseOutcome .bufferTooSmall (closeWindow s))
  | rejects (inEscape : s.decState = .insideMessageEscaping) (notStart : b ≠ 0x02) (invalid : escValid b = false) :
      Ingested b s (raiseOutcome .invalidEscape (closeWindow s))

section Table

variable {b v : Byte} {s t : State}

theorem ingest_of_carries (h : Carries s b v) : ingest b s = ingestData v (closeWindow s) := by
  cases h with
  | plain inMessage ordinary => exact ingest_data inMessage ordinary
  | escaped inEscape valid => exact ingest_escaped inEscape valid

/-- A byte that carries a payload byte is written or overflows, by the capacity. -/
theorem ingested_of_carries (h : Carries s b v) : Ingested b s (ingest b s) := by
  rw [ingest_of_carries h]
  rcases ingestData_cases v (closeWindow s) with ⟨room, e⟩ | ⟨full, e⟩ <;> rw [e]
  · exact .writes h room
  · exact .overflows h full

theorem ingested (b : Byte) (s : State) : Ingested b s (ingest b s) := by
  rcases ingest_cases b s with ⟨illegal, e⟩ | ⟨legal, start, e⟩ | ⟨waiting, notStart, e⟩ | ⟨inMessage, finish, e⟩ |
    ⟨inMessage, escape, e⟩ | ⟨inMessage, ordinary, -⟩ | ⟨inEscape, notStart, invalid, e⟩ | ⟨inEscape, valid, -⟩
  · exact e ▸ .faults illegal
  · exact e ▸ .starts legal start
  · exact e ▸ .ignores waiting notStart
  · exact e ▸ .delivers inMessage finish
  · exact e ▸ .escapes inMessage escape
  · exact ingested_of_carries (.plain inMessage ordinary)
  · exact e ▸ .rejects inEscape notStart invalid
  · exact ingested_of_carries (.escaped inEscape valid)

/-- The relation is the function. -/
theorem Ingested.eq_ingest (h : Ingested b s t) : ingest b s = t := by
  cases h with
  | faults illegal => exact ingest_of_illegal illegal
  | starts legal start => exact start ▸ ingest_start legal
  | ignores waiting notStart => exact ingest_noise waiting notStart
  | delivers inMessage finish => exact finish ▸ ingest_end inMessage
  | escapes inMessage escape => exact escape ▸ ingest_escape inMessage
  | writes carries room => exact (ingest_of_carries carries).trans (ingestData_of_room (s := closeWindow s) room)
  | overflows carries full => exact (ingest_of_carries carries).trans (ingestData_of_full (s := closeWindow s) full)
  | rejects inEscape notStart invalid => exact ingest_malformed inEscape notStart invalid

/-- What an instruction that carries a byte to DEC does. -/
theorem ingested_of_exec {i : Instr} (carried : carriedByte i = some b) (h : exec i s = .next t) :
    Ingested b s t := by
  rw [exec_of_carriedByte s carried] at h
  exact Host.Outcome.next.inj h ▸ ingested b s

end Table

/-! ### The response codes (spec/30_encoding.md R60, R61) -/

/-- The response without data or length. -/
abbrev bareResp (code : RespCode) : Resp := { code, data := 0, len := 0 }

/-- Which instruction gives which response, with the response's data and length. -/
inductive RespondsWith : Instr → Resp → Prop where
  | cont {i : Instr} {b : Byte} (carried : carriedByte i = some b) : RespondsWith i (bareResp .cont)
  | messageReady {i : Instr} {b : Byte} (carried : carriedByte i = some b) (len : Nat) :
      RespondsWith i { code := .messageReady, data := 0, len }
  | invalidEscape {i : Instr} {b : Byte} (carried : carriedByte i = some b) :
      RespondsWith i (bareResp .invalidEscape)
  | bufferTooSmall {i : Instr} {b : Byte} (carried : carriedByte i = some b) :
      RespondsWith i (bareResp .bufferTooSmall)
  | endOfInput : RespondsWith .decEoi (bareResp .endOfInput)
  | reset : RespondsWith .decReset (bareResp .ok)
  | started (p : List Byte) : RespondsWith (.encStart p) (bareResp .ok)
  | emit (b : Byte) : RespondsWith .encPull { code := .emit, data := b, len := 0 }
  | finished : RespondsWith .encPull (bareResp .finished)
  | classified (b c : Byte) : RespondsWith (.detClassify b) { code := .classified, data := c, len := 0 }

section Responses

variable {i : Instr} {s t : State} {r : Resp}

/-- A byte that is ingested gives one of the four codes of R87, or the fault of an illegal state. -/
theorem respondsWith_of_ingested {b : Byte} (carried : carriedByte i = some b) (h : Ingested b s t)
    (a : t.answer = .response r) : RespondsWith i r := by
  cases h with
  | faults => cases a
  | starts | ignores | escapes | writes => cases a; exact .cont carried
  | delivers => cases a; exact .messageReady carried _
  | overflows => cases a; exact .bufferTooSmall carried
  | rejects => cases a; exact .invalidEscape carried

theorem decEoi_of_legal (legal : s.decState ≠ .illegal) : decEoi s = respond .endOfInput 0 0 s :=
  withLegalDecoder_of_legal _ legal

theorem decEoi_of_illegal (illegal : s.decState = .illegal) : decEoi s = raiseFault .illegalDecoderState s :=
  withLegalDecoder_of_illegal _ illegal

theorem decReset_of_legal (legal : s.decState ≠ .illegal) : decReset s = respond .ok 0 0 (recover s) :=
  withLegalDecoder_of_legal _ legal

theorem decReset_of_illegal (illegal : s.decState = .illegal) : decReset s = raiseFault .illegalDecoderState s :=
  withLegalDecoder_of_illegal _ illegal

theorem respondsWith_of_decEoi (a : (decEoi s).answer = .response r) : RespondsWith .decEoi r := by
  by_cases illegal : s.decState = .illegal
  · rw [decEoi_of_illegal illegal] at a
    cases a
  · rw [decEoi_of_legal illegal] at a
    cases a
    exact .endOfInput

theorem respondsWith_of_decReset (a : (decReset s).answer = .response r) : RespondsWith .decReset r := by
  by_cases illegal : s.decState = .illegal
  · rw [decReset_of_illegal illegal] at a
    cases a
  · rw [decReset_of_legal illegal] at a
    cases a
    exact .reset

theorem respondsWith_of_encStart {p : List Byte} (a : (encStart p s).answer = .response r) :
    RespondsWith (.encStart p) r := by
  cases fits : payloadFits p s with
  | true =>
    rw [encStart_of_fits fits] at a
    cases a
    exact .started p
  | false =>
    rw [encStart_of_too_long fits] at a
    cases a

theorem respondsWith_of_encPull (a : (encPull s).answer = .response r) : RespondsWith .encPull r := by
  rcases encPull_cases s with ⟨_, e⟩ | ⟨_, _, e⟩ | ⟨_, _, b, _, ⟨_, e⟩ | ⟨_, e⟩⟩ | ⟨_, _, _, e⟩ | ⟨_, e⟩ | ⟨_, e⟩
  all_goals
    rw [e] at a
    cases a
  any_goals exact .emit _
  exact .finished

/-- Every response comes from the instructions of its code. -/
theorem respondsWith_of_exec (h : exec i s = .next t) (a : t.answer = .response r) : RespondsWith i r := by
  rcases exec_cases h with ⟨b, carried, rfl⟩ | ⟨rfl, rfl⟩ | ⟨rfl, rfl⟩ | ⟨p, rfl, rfl⟩ | ⟨rfl, rfl⟩ | ⟨b, rfl, rfl⟩ |
    ⟨_, _, rfl⟩
  · exact respondsWith_of_ingested carried (ingested b s) a
  · exact respondsWith_of_decEoi a
  · exact respondsWith_of_decReset a
  · exact respondsWith_of_encStart a
  · exact respondsWith_of_encPull a
  · cases a
    exact .classified b _
  · cases a

/-- The codes of R87 come from a byte that is ingested. -/
theorem ingested_of_code (h : exec i s = .next t) (a : t.answer = .response r)
    (code : r.code = .cont ∨ r.code = .messageReady ∨ r.code = .invalidEscape ∨ r.code = .bufferTooSmall) :
    ∃ b, carriedByte i = some b ∧ Ingested b s t := by
  cases respondsWith_of_exec h a with
  | cont carried | messageReady carried | invalidEscape carried | bufferTooSmall carried =>
    exact ⟨_, carried, ingested_of_exec carried h⟩
  | endOfInput | reset | started | emit | finished | classified => simp at code

/-- Settles O39: the origin of each response, then the numbers of the codes. -/
theorem responseCodesComeFromTheirRequests : Obligations.ResponseCodesComeFromTheirRequests := by
  refine ⟨fun i s t r h a => ?origin, rfl, rfl, rfl, rfl, rfl, rfl, rfl, rfl, rfl⟩
  cases respondsWith_of_exec h a with
  | cont carried | messageReady carried | invalidEscape carried | bufferTooSmall carried =>
    simp [carried, RespCode.toBits]
  | endOfInput | reset | started | emit | finished | classified => simp [RespCode.toBits]

end Responses

end Sys2Proof.Machine

namespace Sys2Proof.Machine

/-! ### What an instruction does to DEC and to BUF (spec/42_decoder.md, spec/20_memory.md R37, R39) -/

section Dec

variable {i : Instr} {b v : Byte} {s t : State}

theorem decView_eq_iff : decView t = decView s ↔
    t.decState = s.decState ∧ t.decCursor = s.decCursor ∧ t.buf = s.buf ∧ t.window = s.window := by
  simp [decView]

theorem decView_decEoi (s : State) : decView (decEoi s) = decView s := by
  rw [decEoi_frame]
  rfl

/-- Everything an instruction can do to DEC: a byte is ingested, the decoder is reset, or DEC stays as it is. -/
theorem dec_cases (h : exec i s = .next t) :
    (∃ b, carriedByte i = some b ∧ Ingested b s t) ∨ (i = .decReset ∧ t = decReset s) ∨
      (carriedByte i = none ∧ i ≠ .decReset ∧ decView t = decView s) := by
  rcases exec_cases h with ⟨b, carried, rfl⟩ | ⟨rfl, rfl⟩ | ⟨rfl, rfl⟩ | ⟨p, rfl, rfl⟩ | ⟨rfl, rfl⟩ | ⟨b, rfl, rfl⟩ |
    ⟨d, rfl | rfl, rfl⟩
  · exact .inl ⟨b, carried, ingested b s⟩
  · exact .inr (.inr ⟨rfl, nofun, decView_decEoi s⟩)
  · exact .inr (.inl ⟨rfl, rfl⟩)
  · exact .inr (.inr ⟨rfl, nofun, decView_encStart p s⟩)
  · exact .inr (.inr ⟨rfl, nofun, decView_encPull s⟩)
  all_goals exact .inr (.inr ⟨rfl, nofun, rfl⟩)

/-- An instruction that carries a byte is a request to DEC, and none to ENC. -/
theorem isDecInstr_of_carriedByte (carried : carriedByte i = some b) :
    isDecInstr i = true ∧ isEncInstr i = false := by
  cases i <;> simp_all [carriedByte, isDecInstr, isEncInstr]

/-- DEC stores a byte exactly where it carries a payload byte that there is room for. -/
theorem storedByte_eq_some_iff : storedByte b s = some v ↔ Carries s b v ∧ s.decCursor < s.params.capacity := by
  constructor
  · intro h
    cases state : s.decState with
    | waitingForStart | illegal => simp [storedByte, state] at h
    | insideMessage =>
      obtain ⟨⟨ordinary, room⟩, rfl⟩ :
          (isControl b = false ∧ s.decCursor < s.params.capacity) ∧ b = v := by
        simpa [storedByte, state, bufHasRoom] using h
      exact ⟨.plain state (isControl_eq_false_iff.mp ordinary), room⟩
    | insideMessageEscaping =>
      obtain ⟨⟨valid, room⟩, rfl⟩ :
          (escValid b = true ∧ s.decCursor < s.params.capacity) ∧ comp b = v := by
        simpa [storedByte, state, bufHasRoom] using h
      exact ⟨.escaped state valid, room⟩
  · rintro ⟨⟨state, ordinary⟩ | ⟨state, valid⟩, room⟩
    · simp [storedByte, state, bufHasRoom, room, isControl_eq_false_iff.mpr ordinary]
    · simp [storedByte, state, bufHasRoom, room, valid]

theorem Ingested.buf_of_storedByte (h : Ingested b s t) (stored : storedByte b s = some v) :
    t.buf = s.buf.write s.decCursor v := by
  obtain ⟨carries, room⟩ := storedByte_eq_some_iff.mp stored
  rw [← h.eq_ingest, (Ingested.writes carries room).eq_ingest]
  rfl

theorem Ingested.buf_of_not_storedByte (h : Ingested b s t) (stored : storedByte b s = none) : t.buf = s.buf := by
  cases h with
  | writes carries room => simp [storedByte_eq_some_iff.mpr ⟨carries, room⟩] at stored
  | faults | starts | ignores | delivers | escapes | overflows | rejects => rfl

theorem decReset_buf (s : State) : (decReset s).buf = s.buf := by rw [decReset_frame]

/-- Everything an instruction can do to BUF: one byte is written at DEC_CURSOR, or BUF stays as it is. -/
theorem buf_cases (h : exec i s = .next t) :
    (∃ b v, carriedByte i = some b ∧ storedByte b s = some v ∧ t.buf = s.buf.write s.decCursor v) ∨
      ((∀ b, carriedByte i = some b → storedByte b s = none) ∧ t.buf = s.buf) := by
  rcases dec_cases h with ⟨b, carried, ing⟩ | ⟨rfl, rfl⟩ | ⟨none_carried, -, view⟩
  · cases stored : storedByte b s with
    | some v => exact .inl ⟨b, v, carried, stored, ing.buf_of_storedByte stored⟩
    | none =>
      refine .inr ⟨fun c hc => ?_, ing.buf_of_not_storedByte stored⟩
      obtain rfl : b = c := Option.some.inj (carried.symm.trans hc)
      exact stored
  · exact .inr ⟨nofun, decReset_buf s⟩
  · refine .inr ⟨fun b hb => by simp [none_carried] at hb, ?_⟩
    obtain ⟨-, -, buf, -⟩ := decView_eq_iff.mp view
    exact buf

/-! ### Deliveries and framing errors (spec/42_decoder.md R91, spec/60_exceptions.md R106 to R108) -/

variable {r : Resp}

/-- A delivery is END in InsideMessage (R91). -/
theorem delivery_inv {len : Nat} (h : exec i s = .next t) (a : t.answer = delivered len) :
    carriedByte i = some 0x03 ∧ s.decState = .insideMessage ∧ len = s.decCursor ∧
      t = ingestEnd (closeWindow s) := by
  obtain ⟨b, carried, ing⟩ := ingested_of_code h a (.inr (.inl rfl))
  cases ing with
  | delivers inMessage finish =>
    cases a
    exact ⟨finish ▸ carried, inMessage, rfl, rfl⟩
  | faults | starts | ignores | escapes | writes | overflows | rejects => cases a

/-- INVALID_ESCAPE is a malformed second byte (R106). -/
theorem invalidEscape_inv (h : exec i s = .next t) (a : t.answer = .response r) (code : r.code = .invalidEscape) :
    t = raiseOutcome .invalidEscape (closeWindow s) ∧
      ∃ b, carriedByte i = some b ∧ s.decState = .insideMessageEscaping ∧ b ≠ 0x02 ∧ escValid b = false := by
  obtain ⟨b, carried, ing⟩ := ingested_of_code h a (by simp [code])
  cases ing with
  | rejects inEscape notStart invalid => exact ⟨rfl, b, carried, inEscape, notStart, invalid⟩
  | faults => cases a
  | starts | ignores | delivers | escapes | writes | overflows => cases a; cases code

/-- BUFFER_TOO_SMALL is a byte to be written to a full buffer (R107). -/
theorem bufferTooSmall_inv (h : exec i s = .next t) (a : t.answer = .response r) (code : r.code = .bufferTooSmall) :
    t = raiseOutcome .bufferTooSmall (closeWindow s) ∧ s.params.capacity ≤ s.decCursor ∧
      ∃ b v, carriedByte i = some b ∧ Carries s b v := by
  obtain ⟨b, carried, ing⟩ := ingested_of_code h a (by simp [code])
  cases ing with
  | overflows carries full => exact ⟨rfl, full, b, _, carried, carries⟩
  | faults => cases a
  | starts | ignores | delivers | escapes | writes | rejects => cases a; cases code

end Dec

/-- Settles O26: the cell, and the delivery traced back to it. -/
theorem endInsideAMessageDeliversIt : Obligations.EndInsideAMessageDeliversIt := by
  refine ⟨fun s inMessage => ⟨s.decCursor, ?cell⟩, fun i s t len h a => ?origin⟩
  case cell =>
    rw [exec_decIngest, ingest_end inMessage]
    rfl
  case origin =>
    obtain ⟨carried, inMessage, len_eq, -⟩ := delivery_inv h a
    exact ⟨carried, inMessage, len_eq⟩

/-- Settles O38: the two errors traced back to their cells; both are a recovery with the code as response. -/
theorem framingErrorsComeFromTheirCellsAndRecover : Obligations.FramingErrorsComeFromTheirCellsAndRecover := by
  refine fun i s t r h a => ⟨fun code => (invalidEscape_inv h a code).2, fun code => ?overflow, fun code => ?recovery⟩
  case overflow =>
    obtain ⟨-, full, b, v, carried, carries⟩ := bufferTooSmall_inv h a code
    refine ⟨full, b, carried, ?_⟩
    cases carries with
    | plain inMessage ordinary => exact .inl ⟨inMessage, ordinary⟩
    | escaped inEscape valid => exact .inr ⟨inEscape, valid⟩
  case recovery =>
    rcases code with code | code
    · obtain ⟨rfl, -⟩ := invalidEscape_inv h a code
      cases a
      exact ⟨rfl, rfl, rfl, rfl, rfl⟩
    · obtain ⟨rfl, -⟩ := bufferTooSmall_inv h a code
      cases a
      exact ⟨rfl, rfl, rfl, rfl, rfl⟩

/-- Settles O40: every cell of a legal state responds, and no cell sets a mark. -/
theorem ingestIsTotal : Obligations.IngestIsTotal := by
  intro b s legal
  have ing := ingested b s
  generalize e : ingest b s = t at ing
  refine ⟨t, ?_⟩
  rw [exec_decIngest, e]
  cases ing with
  | faults illegal => exact absurd illegal legal
  | starts | ignores | escapes | writes => exact ⟨_, rfl, rfl, rfl, rfl, .inl rfl⟩
  | delivers => exact ⟨_, rfl, rfl, rfl, rfl, .inr (.inl rfl)⟩
  | rejects => exact ⟨_, rfl, rfl, rfl, rfl, .inr (.inr (.inl rfl))⟩
  | overflows => exact ⟨_, rfl, rfl, rfl, rfl, .inr (.inr (.inr rfl))⟩

theorem exec_decEoi (s : State) : exec .decEoi s = .next (decEoi s) := rfl

theorem exec_decReset (s : State) : exec .decReset s = .next (decReset s) := rfl

/-- Settles O33, by the check of DEC_STATE. -/
theorem endOfInputKeepsTheDecoderState : Obligations.EndOfInputKeepsTheDecoderState := by
  refine fun s => ⟨fun legal => ?_, fun illegal => ?_⟩
  · rw [exec_decEoi, decEoi_of_legal legal]
    rfl
  · rw [exec_decEoi, decEoi_of_illegal illegal]
    rfl

/-- Settles O23, by the check of DEC_STATE. -/
theorem decResetReturnsToWaitingForStart : Obligations.DecResetReturnsToWaitingForStart := by
  refine fun s => ⟨fun legal => ?_, fun illegal => ?_⟩
  · rw [exec_decReset, decReset_of_legal legal]
    rfl
  · rw [exec_decReset, decReset_of_illegal illegal]
    rfl

/-- An instruction to DEC carries a byte, or is DEC_EOI or DEC_RESET. -/
theorem isDecInstr_cases {i : Instr} (h : isDecInstr i = true) :
    (∃ b, carriedByte i = some b) ∨ i = .decEoi ∨ i = .decReset := by
  rcases instr_cases i with c | c | c | ⟨p, rfl⟩ | rfl | ⟨b, rfl⟩ | ⟨d, rfl⟩ | ⟨d, rfl⟩
  · exact .inl c
  · exact .inr (.inl c)
  · exact .inr (.inr c)
  all_goals cases h

/-- A legal DEC_STATE stays legal. -/
theorem decState_of_illegal {i : Instr} {s t : State} (h : exec i s = .next t) (illegal : t.decState = .illegal) :
    s.decState = .illegal := by
  rcases dec_cases h with ⟨b, -, ing⟩ | ⟨rfl, rfl⟩ | ⟨-, -, view⟩
  · cases ing with
    | faults before => exact before
    | ignores => exact illegal
    | starts | delivers | escapes | writes | overflows | rejects => cases illegal
  · by_contra legal
    rw [decReset_of_legal legal] at illegal
    cases illegal
  · obtain ⟨state, -⟩ := decView_eq_iff.mp view
    exact state ▸ illegal

/-- Settles O35: each request to DEC checks DEC_STATE first, no cell enters the illegal state, and the mark stops. -/
theorem illegalDecoderStateFaultsAndStops : Obligations.IllegalDecoderStateFaultsAndStops := by
  refine ⟨fun i s dec illegal => ?faults, fun _ _ _ => decState_of_illegal, fun _ _ => step_of_faulted⟩
  case faults =>
    rcases isDecInstr_cases dec with ⟨b, carried⟩ | rfl | rfl
    · rw [exec_of_carriedByte s carried, ingest_of_illegal illegal]
      rfl
    · exact (endOfInputKeepsTheDecoderState s).2 illegal
    · exact (decResetReturnsToWaitingForStart s).2 illegal

/-- Settles O36: the frames of the three kinds of request, and what they do to BUF. -/
theorem decoderRequestsChangeOnlyTheDecoder : Obligations.DecoderRequestsChangeOnlyTheDecoder := by
  refine fun i s t dec h => ⟨?frame, fun b v carried stored => ?written, fun none_stored a => ?kept⟩
  case frame =>
    rcases isDecInstr_cases dec with ⟨b, carried⟩ | rfl | rfl
    · rw [exec_of_carriedByte s carried] at h
      obtain rfl := Host.Outcome.next.inj h
      exact ingest_frame b s
    · obtain rfl := Host.Outcome.next.inj h
      rw [decEoi_frame]
    · obtain rfl := Host.Outcome.next.inj h
      rw [decReset_frame]
  case written =>
    rcases buf_cases h with ⟨b', v', carried', stored', buf⟩ | ⟨none_stored, -⟩
    · obtain rfl : b = b' := Option.some.inj (carried.symm.trans carried')
      obtain rfl : v = v' := Option.some.inj (stored.symm.trans stored')
      unfold readBuf
      rw [buf]
      exact ⟨Memory.read_write_same _ _ _, fun a => Memory.read_write_of_ne s.buf v⟩
    · cases (none_stored b carried).symm.trans stored
  case kept =>
    rcases buf_cases h with ⟨b, v, carried, stored, -⟩ | ⟨-, buf⟩
    · cases (none_stored b carried).symm.trans stored
    · rw [readBuf, buf, readBuf]

/-- A byte that a memory holds is still held after a write. -/
theorem Memory.isSome_write {m : Memory} {a : Nat} (i : Nat) (v : Byte) (h : (m.read a).isSome = true) :
    ((m.write i v).read a).isSome = true := by
  by_cases e : a = i
  · simp [e]
  · rwa [Memory.read_write_of_ne m v e]

/-- START carries no payload byte. -/
theorem storedByte_start (s : State) : storedByte 0x02 s = none := by
  refine Option.eq_none_iff_forall_ne_some.mpr fun v h => ?_
  obtain ⟨⟨-, ordinary⟩ | ⟨-, valid⟩, -⟩ := storedByte_eq_some_iff.mp h
  · cases ordinary
  · cases valid

/-- Settles O37: a write keeps every byte present, and none of the listed requests writes. -/
theorem noRequestClearsTheBuffer : Obligations.NoRequestClearsTheBuffer := by
  refine fun i s t a h => ⟨fun present => ?present, fun listed => ?listed⟩
  case present =>
    unfold readBuf at *
    rcases buf_cases h with ⟨b, v, -, -, buf⟩ | ⟨-, buf⟩ <;> rw [buf]
    · exact Memory.isSome_write _ _ present
    · exact present
  case listed =>
    have buf : t.buf = s.buf := by
      rcases listed with rfl | start | ⟨len, ready⟩ | error | error
      · exact Host.Outcome.next.inj h ▸ decReset_buf s
      · exact (ingested_of_exec start h).buf_of_not_storedByte (storedByte_start s)
      · obtain ⟨-, -, -, rfl⟩ := delivery_inv h ready
        rfl
      · exact (invalidEscape_inv h error rfl).1 ▸ rfl
      · exact (bufferTooSmall_inv h error rfl).1 ▸ rfl
    rw [readBuf, buf, readBuf]

/-! ### The wire symbols (log 12) -/

theorem carriedByte_decodeWire (b : Byte) : carriedByte (decodeWire b) = some b := by
  unfold decodeWire
  split_ifs <;> simp_all [carriedByte]

/-- A byte that carries a payload byte, by the capacity. -/
theorem ingest_of_carries_eq_ite {s : State} {b v : Byte} (h : Carries s b v) :
    ingest b s = if s.decCursor < s.params.capacity then
      { s with
        buf := s.buf.write s.decCursor v, decCursor := s.decCursor + 1, decState := .insideMessage,
        answer := continued, window := 0 }
    else
      { s with decCursor := 0, decState := .waitingForStart, answer := bufferTooSmallAnswer, window := 0 } := by
  split
  next room => exact (Ingested.writes h room).eq_ingest
  next full => exact (Ingested.overflows h (Nat.not_lt.mp full)).eq_ingest

/-- Settles O34: a symbol is ingested as its byte, which the laws of the cells then take up one by one. -/
theorem wireSymbolsFollowTheTransitionTable : Obligations.WireSymbolsFollowTheTransitionTable := by
  refine ⟨fun b s => ⟨?same, carriedByte_decodeWire b⟩, startAlwaysResynchronises, fun i b s carried notStart => ?cells⟩
  case same => rw [exec_of_carriedByte s (carriedByte_decodeWire b), exec_decIngest]
  case cells =>
    rw [exec_of_carriedByte s carried]
    refine ⟨fun waiting => ?noise, fun inMessage finish => ?finish, fun inMessage escape => ?escape,
      fun inMessage notEnd notEscape => ?data, fun inEscape second => ?second,
      fun inEscape notFB notFC notFD => malformedEscapeDropsTheFrame b s inEscape notStart notFB notFC notFD⟩
    case noise => exact noiseOutsideAFrameIsIgnored b s notStart waiting
    case finish =>
      subst finish
      cases carried
      exact ⟨_, congrArg _ (ingest_end inMessage)⟩
    case escape =>
      subst escape
      cases carried
      exact ⟨_, congrArg _ (ingest_escape inMessage)⟩
    case data =>
      have carries : Carries s b b := .plain inMessage (classify_other_iff.mpr ⟨notStart, notEnd, notEscape⟩)
      rw [ingest_of_carries_eq_ite carries, ← inMessage]
      exact ⟨0, rfl⟩
    case second => exact ⟨0, congrArg _ (ingest_of_carries_eq_ite (.escaped inEscape (escValid_iff.mpr second)))⟩

end Sys2Proof.Machine

namespace Sys2Proof.Machine

/-! ### What an instruction does to the parameters, the marks and ENC -/

section Exec

variable {i : Instr} {b : Byte} {s t : State}

theorem encView_eq_iff : encView t = encView s ↔
    t.encPhase = s.encPhase ∧ t.encCursor = s.encCursor ∧ t.encLen = s.encLen ∧ t.encPend = s.encPend ∧
      t.pay = s.pay := by
  simp [encView]

theorem encView_ingest (b : Byte) (s : State) : encView (ingest b s) = encView s := by
  rw [ingest_frame]
  rfl

theorem encView_decEoi (s : State) : encView (decEoi s) = encView s := by
  rw [decEoi_frame]
  rfl

theorem encView_decReset (s : State) : encView (decReset s) = encView s := by
  rw [decReset_frame]
  rfl

/-- Everything an instruction can do to ENC: ENC_START, ENC_PULL, or ENC stays as it is. -/
theorem enc_cases (h : exec i s = .next t) :
    (∃ p, i = .encStart p ∧ t = encStart p s) ∨ (i = .encPull ∧ t = encPull s) ∨
      (isEncInstr i = false ∧ encView t = encView s) := by
  rcases exec_cases h with ⟨b, carried, rfl⟩ | ⟨rfl, rfl⟩ | ⟨rfl, rfl⟩ | ⟨p, rfl, rfl⟩ | ⟨rfl, rfl⟩ | ⟨b, rfl, rfl⟩ |
    ⟨d, rfl | rfl, rfl⟩
  · exact .inr (.inr ⟨(isDecInstr_of_carriedByte carried).2, encView_ingest b s⟩)
  · exact .inr (.inr ⟨rfl, encView_decEoi s⟩)
  · exact .inr (.inr ⟨rfl, encView_decReset s⟩)
  · exact .inl ⟨p, rfl, rfl⟩
  · exact .inr (.inl ⟨rfl, rfl⟩)
  all_goals exact .inr (.inr ⟨rfl, rfl⟩)

/-- No instruction writes the parameters (70_reset_and_hazards.md R124). -/
theorem exec_params (h : exec i s = .next t) : t.params = s.params := by
  rcases exec_cases h with ⟨b, _, rfl⟩ | ⟨_, rfl⟩ | ⟨_, rfl⟩ | ⟨p, _, rfl⟩ | ⟨_, rfl⟩ | ⟨_, _, rfl⟩ | ⟨_, _, rfl⟩
  · rw [ingest_frame]
  · rw [decEoi_frame]
  · rw [decReset_frame]
  · rw [encStart_frame]
  · rw [encPull_frame]
  · rfl
  · rfl

/-- No instruction clears the refused mark (10_state.md R29). -/
theorem exec_keeps_refused (h : exec i s = .next t) (set : s.refused = true) : t.refused = true := by
  rcases exec_cases h with ⟨b, _, rfl⟩ | ⟨_, rfl⟩ | ⟨_, rfl⟩ | ⟨p, _, rfl⟩ | ⟨_, rfl⟩ | ⟨_, _, rfl⟩ | ⟨_, _, rfl⟩
  · rwa [ingest_frame]
  · rwa [decEoi_frame]
  · rwa [decReset_frame]
  · cases fits : payloadFits p s with
    | true => rwa [encStart_of_fits fits]
    | false =>
      rw [encStart_of_too_long fits]
      rfl
  · rwa [encPull_frame]
  · exact set
  · rfl

/-- A pull past the payload (20_memory.md R35). -/
structure PullsPastPayload (s : State) : Prop where
  phase : s.encPhase = .encoding
  not_at_end : s.encCursor ≠ s.encLen
  no_byte : ¬ (s.encCursor < s.encLen ∧ (s.pay.read s.encCursor).isSome)

theorem PullsPastPayload.encPull_eq (past : PullsPastPayload s) :
    encPull s = raiseFault .payloadIndexOutOfRange s := by
  rcases encPull_cases s with ⟨phase, -⟩ | ⟨-, at_end, -⟩ | ⟨-, lt, b, read, -⟩ | ⟨-, -, -, e⟩ | ⟨phase, -⟩ |
    ⟨phase, -⟩
  case inr.inr.inr.inl => exact e
  case inr.inl => exact absurd at_end past.not_at_end
  case inr.inr.inl => exact absurd ⟨lt, by simp [read]⟩ past.no_byte
  all_goals cases past.phase.symm.trans phase

theorem encPull_faulted : (encPull s).faulted = s.faulted ∨
    (PullsPastPayload s ∧ encPull s = raiseFault .payloadIndexOutOfRange s) := by
  rcases encPull_cases s with ⟨_, e⟩ | ⟨_, _, e⟩ | ⟨_, _, _, _, ⟨_, e⟩ | ⟨_, e⟩⟩ | ⟨phase, ne, no_byte, e⟩ | ⟨_, e⟩ |
    ⟨_, e⟩
  case inr.inr.inr.inl => exact .inr ⟨⟨phase, ne, no_byte⟩, e⟩
  all_goals
    rw [e]
    exact .inl rfl

theorem withLegalDecoder_faulted {body : State → State} (keeps : (body s).faulted = s.faulted) :
    (withLegalDecoder body s).faulted = s.faulted ∨
      (s.decState = .illegal ∧ (withLegalDecoder body s).faulted = some .illegalDecoderState) := by
  by_cases illegal : s.decState = .illegal
  · exact .inr ⟨illegal, by rw [withLegalDecoder_of_illegal _ illegal]; rfl⟩
  · exact .inl (by rw [withLegalDecoder_of_legal _ illegal, keeps])

theorem Ingested.faulted (h : Ingested b s t) :
    t.faulted = s.faulted ∨ (s.decState = .illegal ∧ t.faulted = some .illegalDecoderState) := by
  cases h with
  | faults illegal => exact .inr ⟨illegal, rfl⟩
  | starts | ignores | delivers | escapes | writes | overflows | rejects => exact .inl rfl

/-- Everything an instruction can do to the faulted mark: it stays, or one of the two faults a request can meet. -/
theorem faulted_cases (h : exec i s = .next t) :
    t.faulted = s.faulted ∨ (s.decState = .illegal ∧ t.faulted = some .illegalDecoderState) ∨
      (PullsPastPayload s ∧ t.faulted = some .payloadIndexOutOfRange) := by
  rcases exec_cases h with ⟨b, _, rfl⟩ | ⟨_, rfl⟩ | ⟨_, rfl⟩ | ⟨p, _, rfl⟩ | ⟨_, rfl⟩ | ⟨_, _, rfl⟩ | ⟨_, _, rfl⟩
  · exact (ingested b s).faulted.imp_right .inl
  · exact (withLegalDecoder_faulted rfl).imp_right .inl
  · exact (withLegalDecoder_faulted rfl).imp_right .inl
  · rw [encStart_frame]
    exact .inl rfl
  · rcases encPull_faulted (s := s) with e | ⟨past, e⟩
    · exact .inl e
    · exact .inr (.inr ⟨past, by rw [e]; rfl⟩)
  · exact .inl rfl
  · exact .inl rfl

end Exec

/-- Settles O53: the refused mark instruction by instruction; the faulted mark stays or is set. -/
theorem marksAreNeverCleared : Obligations.MarksAreNeverCleared := by
  refine fun i s t h => ⟨exec_keeps_refused h, fun set => ?faulted⟩
  rcases faulted_cases h with e | ⟨-, e⟩ | ⟨-, e⟩ <;> rw [e]
  · exact set
  · rfl
  · rfl

/-- Settles O19, by the frames of the two requests. -/
theorem encoderRequestsChangeOnlyTheEncoder : Obligations.EncoderRequestsChangeOnlyTheEncoder := by
  refine ⟨fun s t h => ?pull, fun p s t h => ?start⟩
  case pull =>
    obtain rfl : encPull s = t := Host.Outcome.next.inj h
    obtain ⟨-, -, buf, -⟩ := decView_eq_iff.mp (decView_encPull s)
    exact ⟨encPull_frame s, fun a => by rw [readBuf, buf, readBuf]⟩
  case start =>
    obtain rfl : encStart p s = t := Host.Outcome.next.inj h
    obtain ⟨-, -, buf, -⟩ := decView_eq_iff.mp (decView_encStart p s)
    exact ⟨encStart_frame p s, fun a => by rw [readBuf, buf, readBuf]⟩

theorem memReadPay_of_ge {s : State} {i : Nat} (h : s.encLen ≤ i) :
    memReadPay i s = .error .payloadIndexOutOfRange := if_neg (Nat.not_lt.mpr h)

/-- An encoder that keeps its invariant does not pull past the payload. -/
theorem EncInv.not_pullsPastPayload {s : State} (inv : EncInv s) : ¬ PullsPastPayload s := fun past => by
  have lt : s.encCursor < s.encLen := lt_of_le_of_ne inv.cursor_le past.not_at_end
  exact past.no_byte ⟨lt, (inv.pay_full _).mpr lt⟩

/-- Settles O18: the two sides of the range, the pull beyond it, and the pull that the invariant keeps within it. -/
theorem payloadReadOutsideItsRangeFaults : Obligations.PayloadReadOutsideItsRangeFaults := by
  refine ⟨fun s i b lt read => memReadPay_ok.mpr ⟨lt, read⟩, fun s i => memReadPay_of_ge,
    fun s phase past => ?past, fun s t inv h => ?kept⟩
  case past =>
    have past_payload : PullsPastPayload s := ⟨phase, past.ne', fun ⟨lt, _⟩ => past.asymm lt⟩
    rw [exec_encPull, past_payload.encPull_eq]
    rfl
  case kept =>
    obtain rfl : encPull s = t := Host.Outcome.next.inj h
    exact encPull_faulted.resolve_right fun ⟨past, _⟩ => inv.not_pullsPastPayload past

/-! ### The invariant of DEC (spec/10_state.md R18 (a), (b)) -/

/-- R18 (a) and (b) alone: DEC_CURSOR is within CAPACITY, and 0 while DEC waits. -/
structure CursorInv (s : State) : Prop where
  cursor_le : s.decCursor ≤ s.params.capacity
  waiting_cursor : s.decState = .waitingForStart → s.decCursor = 0

section DecInv

variable {i : Instr} {b : Byte} {s t : State}

theorem CursorInv.of_view (inv : CursorInv s) (params : t.params = s.params) (view : decView t = decView s) :
    CursorInv t := by
  obtain ⟨state, cursor, -, -⟩ := decView_eq_iff.mp view
  exact { cursor_le := by rw [cursor, params]; exact inv.cursor_le
          waiting_cursor := by rw [cursor, state]; exact inv.waiting_cursor }

theorem CursorInv.of_cursor_zero (zero : t.decCursor = 0) : CursorInv t where
  cursor_le := zero ▸ Nat.zero_le _
  waiting_cursor _ := zero

theorem Ingested.cursorInv (h : Ingested b s t) (inv : CursorInv s) : CursorInv t := by
  cases h with
  | faults | ignores => exact ⟨inv.cursor_le, inv.waiting_cursor⟩
  | starts | delivers | overflows | rejects => exact .of_cursor_zero rfl
  | escapes => exact ⟨inv.cursor_le, nofun⟩
  | writes _ room => exact ⟨room, nofun⟩

theorem decReset_cursorInv (inv : CursorInv s) : CursorInv (decReset s) := by
  by_cases illegal : s.decState = .illegal
  · rw [decReset_of_illegal illegal]
    exact ⟨inv.cursor_le, inv.waiting_cursor⟩
  · rw [decReset_of_legal illegal]
    exact .of_cursor_zero rfl

theorem exec_keeps_cursorInv (h : exec i s = .next t) (inv : CursorInv s) : CursorInv t := by
  rcases dec_cases h with ⟨b, -, ing⟩ | ⟨-, rfl⟩ | ⟨-, -, view⟩
  · exact ing.cursorInv inv
  · exact decReset_cursorInv inv
  · exact inv.of_view (exec_params h) view

/-- The host's window stays, is closed, or becomes the slice that is delivered (70_reset_and_hazards.md R125). -/
theorem window_cases (h : exec i s = .next t) : t.window = s.window ∨ t.window = 0 ∨ t.window = s.decCursor := by
  rcases dec_cases h with ⟨b, -, ing⟩ | ⟨-, rfl⟩ | ⟨-, -, view⟩
  · cases ing with
    | faults => exact .inl rfl
    | delivers => exact .inr (.inr rfl)
    | starts | ignores | escapes | writes | overflows | rejects => exact .inr (.inl rfl)
  · rw [decReset_frame]
    exact .inl rfl
  · obtain ⟨-, -, -, window⟩ := decView_eq_iff.mp view
    exact .inl window

theorem DecInv.of_view (inv : DecInv s) (params : t.params = s.params) (view : decView t = decView s) :
    DecInv t := by
  obtain ⟨state, cursor, buf, window⟩ := decView_eq_iff.mp view
  constructor <;> simp only [readBuf, state, cursor, buf, window, params]
  · exact inv.legal
  · exact inv.cursor_le
  · exact inv.waiting_cursor
  · exact inv.buf_wf
  · exact inv.buf_full
  · exact inv.window_le

/-- Every instruction keeps the invariant of DEC, clause by clause. -/
theorem exec_keeps_decInv (h : exec i s = .next t) (inv : DecInv s) : DecInv t := by
  have cursor : CursorInv t := exec_keeps_cursorInv h ⟨inv.cursor_le, inv.waiting_cursor⟩
  refine { legal := fun bad => inv.legal (decState_of_illegal h bad), cursor_le := cursor.cursor_le,
           waiting_cursor := cursor.waiting_cursor, buf_wf := ?wf, buf_full := fun a => ?full, window_le := ?window }
  case wf =>
    rcases buf_cases h with ⟨b, v, -, -, buf⟩ | ⟨-, buf⟩ <;> rw [buf]
    · exact Memory.write_wf _ _ inv.buf_wf
    · exact inv.buf_wf
  case full =>
    rw [exec_params h, ← inv.buf_full a, readBuf, readBuf]
    rcases buf_cases h with ⟨b, v, -, stored, buf⟩ | ⟨-, buf⟩ <;> rw [buf]
    obtain ⟨-, room⟩ := storedByte_eq_some_iff.mp stored
    rw [Memory.isSome_read_write v ((inv.buf_full _).mpr room)]
  case window =>
    rw [exec_params h]
    rcases window_cases h with e | e | e <;> rw [e]
    · exact inv.window_le
    · exact Nat.zero_le _
    · exact inv.cursor_le

end DecInv

/-! ### The invariant of ENC (spec/10_state.md R24 (a) to (c)) -/

section EncInv

variable {i : Instr} {s t : State}

/-- What has to be shown of a state with the same payload. -/
theorem EncInv.of_same_payload (inv : EncInv s) (params : t.params = s.params) (len : t.encLen = s.encLen)
    (pay : t.pay = s.pay) (cursor_le : t.encCursor ≤ s.encLen)
    (pending : t.encPhase = .escapedCharacter →
      1 ≤ t.encCursor ∧ s.pay.read (t.encCursor - 1) = some t.encPend ∧ isControl t.encPend = true)
    (begin_cursor : t.encPhase = .begin → t.encCursor = 0) : EncInv t where
  cursor_le := len ▸ cursor_le
  pay_wf := pay ▸ inv.pay_wf
  pay_full := by rw [pay, len]; exact inv.pay_full
  pending := by rw [pay]; exact pending
  begin_cursor := begin_cursor
  len_le := by rw [params, len]; exact inv.len_le

theorem EncInv.of_view (inv : EncInv s) (params : t.params = s.params) (view : encView t = encView s) :
    EncInv t := by
  obtain ⟨phase, cursor, len, pend, pay⟩ := encView_eq_iff.mp view
  refine inv.of_same_payload params len pay ?_ ?_ ?_ <;> simp only [phase, cursor, pend]
  · exact inv.cursor_le
  · exact inv.pending
  · exact inv.begin_cursor

theorem encStart_encInv (p : List Byte) (inv : EncInv s) : EncInv (encStart p s) := by
  cases fits : payloadFits p s with
  | true =>
    rw [encStart_of_fits fits]
    exact { cursor_le := Nat.zero_le _, pay_wf := Memory.ofBytes_wf p, pay_full := fun i => by simp
            pending := nofun, begin_cursor := fun _ => rfl, len_le := payloadFits_iff.mp fits }
  | false =>
    rw [encStart_of_too_long fits]
    exact inv.of_view rfl rfl

theorem encPull_encInv (inv : EncInv s) : EncInv (encPull s) := by
  rcases encPull_cases s with ⟨_, e⟩ | ⟨_, _, e⟩ | ⟨_, lt, b, read, ⟨control, e⟩ | ⟨_, e⟩⟩ | ⟨_, _, _, e⟩ | ⟨_, e⟩ |
    ⟨_, e⟩ <;> rw [e]
  · exact inv.of_same_payload rfl rfl rfl inv.cursor_le nofun nofun
  · exact inv.of_same_payload rfl rfl rfl inv.cursor_le nofun nofun
  · exact inv.of_same_payload rfl rfl rfl lt (fun _ => ⟨Nat.succ_pos _, read, control⟩) nofun
  next phase _ =>
    exact inv.of_same_payload rfl rfl rfl lt (fun p => nomatch phase.symm.trans p) (fun p => nomatch phase.symm.trans p)
  · exact inv.of_view rfl rfl
  · exact inv.of_same_payload rfl rfl rfl inv.cursor_le nofun nofun
  · exact inv.of_view rfl rfl

theorem exec_keeps_encInv (h : exec i s = .next t) (inv : EncInv s) : EncInv t := by
  rcases enc_cases h with ⟨p, -, rfl⟩ | ⟨-, rfl⟩ | ⟨-, view⟩
  · exact encStart_encInv p inv
  · exact encPull_encInv inv
  · exact inv.of_view (exec_params h) view

end EncInv

/-! ### The invariant of the machine -/

section MachineInv

variable {i : Instr} {inp : Input} {s t : State}

/-- What an instruction does to a state that keeps the invariant. -/
theorem exec_keeps_machineInv (h : exec i s = .next t) (inv : MachineInv s) : MachineInv t where
  dec := exec_keeps_decInv h inv.dec
  enc := exec_keeps_encInv h inv.enc
  no_fault := by
    rcases faulted_cases h with e | ⟨illegal, -⟩ | ⟨past, -⟩
    · exact e.trans inv.no_fault
    · exact absurd illegal inv.dec.legal
    · exact absurd past inv.enc.not_pullsPastPayload

/-- The invariant does not speak of the script, the answer and the refused mark. -/
theorem MachineInv.of_views (inv : MachineInv s) (params : t.params = s.params) (dec : decView t = decView s)
    (enc : encView t = encView s) (no_fault : t.faulted = s.faulted) : MachineInv t where
  dec := inv.dec.of_view params dec
  enc := inv.enc.of_view params enc
  no_fault := no_fault.trans inv.no_fault

/-- Settles O51: a step idles, runs an instruction or refuses. -/
theorem everyStepKeepsTheInvariant : Obligations.EveryStepKeepsTheInvariant := by
  intro s t inv h
  obtain ⟨-, ⟨-, rfl⟩ | ⟨inp, rest, -, ⟨i, -, run⟩ | ⟨why, -, rfl⟩⟩⟩ := step_cases h
  · exact inv
  · exact exec_keeps_machineInv run (inv.of_views rfl rfl rfl rfl)
  · exact inv.of_views rfl rfl rfl rfl

/-- Settles O50: a byte at exactly the indices below CAPACITY, no payload, no window. -/
theorem invariantHoldsAtReset : Obligations.InvariantHoldsAtReset := fun prm fill => {
  dec := { legal := nofun, cursor_le := Nat.zero_le _, waiting_cursor := fun _ => rfl
           buf_wf := Memory.powerOn_wf _ _, buf_full := fun i => by simp [readBuf], window_le := Nat.zero_le _ }
  enc := { cursor_le := Nat.le_refl 0, pay_wf := List.Pairwise.nil, pay_full := fun i => by simp
           pending := nofun, begin_cursor := nofun, len_le := fun _ _ => Nat.zero_le _ }
  no_fault := rfl }

theorem step_params (h : step s = .next t) : t.params = s.params := by
  obtain ⟨-, ⟨-, rfl⟩ | ⟨inp, rest, -, ⟨i, -, run⟩ | ⟨why, -, rfl⟩⟩⟩ := step_cases h
  · rfl
  · exact exec_params (s := { s with script := rest }) run
  · rfl

/-- Without the faulted mark a step answers a next state (60_exceptions.md R118). -/
theorem step_next (no_fault : s.faulted = none) : ∃ t, step s = .next t := by
  cases script : s.script with
  | nil => exact ⟨s, step_idle no_fault script⟩
  | cons inp rest =>
    cases decoded : decode inp with
    | ok i => exact step_decoded no_fault script decoded ▸ exec_next i _
    | error why => exact ⟨_, step_rejected no_fault script decoded⟩

/-- Settles O52: a step without the mark goes on, and the invariant it keeps has the mark clear. -/
theorem invariantStatesAlwaysStep : Obligations.InvariantStatesAlwaysStep := fun s inv => by
  obtain ⟨t, h⟩ := step_next inv.no_fault
  exact ⟨t, h, (everyStepKeepsTheInvariant s t inv h).no_fault, step_params h⟩

theorem issue_keeps_machineInv (h : issue inp s = .next t) (inv : MachineInv s) : MachineInv t :=
  everyStepKeepsTheInvariant { s with script := inp :: s.script } t (inv.of_views rfl rfl rfl rfl) h

theorem issue_params (h : issue inp s = .next t) : t.params = s.params :=
  step_params (s := { s with script := inp :: s.script }) h

end MachineInv

/-- Induction over requests: what holds before the first, and is kept by each with the requests before it, holds after
the last. -/
theorem issueAll_induction {I : List Input → State → Prop}
    (keeps : ∀ {done inp s t}, I done s → issue inp s = .next t → I (done ++ [inp]) t)
    {reqs : List Input} {s t : State} {log : List (Input × Answer)} (start : I [] s)
    (run : issueAll reqs s = .next (log, t)) : I reqs t := by
  suffices general : ∀ done, I done s → I (done ++ reqs) t from general [] start
  clear start
  induction reqs generalizing s log with
  | nil =>
    cases run
    simp
  | cons inp reqs ih =>
    obtain ⟨u, log', first, rest, -⟩ := issueAll_cons_inv run
    intro done h
    simpa using ih rest _ (keeps h first)

/-- Settles O46: the invariant holds at reset, and every request keeps it and the parameters. -/
theorem decoderNeverWritesPastCapacity : Obligations.DecoderNeverWritesPastCapacity := by
  intro prm fill reqs t log run
  obtain ⟨inv, params⟩ : MachineInv t ∧ t.params = prm :=
    issueAll_induction (I := fun _ s => MachineInv s ∧ s.params = prm)
      (fun ⟨inv, params⟩ h => ⟨issue_keeps_machineInv h inv, (issue_params h).trans params⟩)
      ⟨invariantHoldsAtReset prm fill, rfl⟩ run
  subst params
  exact ⟨rfl, inv.dec.cursor_le, inv.dec.buf_full⟩

/-! ### Machines side by side (spec/60_exceptions.md R116) -/

/-- Everything a step of the k-th machine of a system can do. -/
theorem systemStep_cases {k : Nat} {sys sys' : System} (h : systemStep k sys = .next sys') :
    (sys[k]? = none ∧ sys' = sys) ∨ ∃ s t, sys[k]? = some s ∧ step s = .next t ∧ sys' = sys.set k t := by
  unfold systemStep at h
  cases found : sys[k]? with
  | none =>
    simp only [found, Host.Outcome.next.injEq] at h
    exact .inl ⟨rfl, h.symm⟩
  | some s =>
    cases run : step s with
    | next t =>
      simp only [found, run, Host.Outcome.next.injEq] at h
      exact .inr ⟨s, t, rfl, run, h.symm⟩
    | fault r => simp [found, run] at h
    | refused r => simp [found, run] at h

/-- Settles O59: the system's step sets the k-th place of the list. -/
theorem instancesShareNothing : Obligations.InstancesShareNothing := by
  intro k sys sys' h
  rcases systemStep_cases h with ⟨absent, rfl⟩ | ⟨s, t, found, run, rfl⟩
  · exact ⟨rfl, fun _ _ => rfl, fun s present => by simp [absent] at present⟩
  · refine ⟨List.length_set, fun j ne => List.getElem?_set_ne ne.symm, fun s' present => ?_⟩
    obtain rfl : s = s' := Option.some.inj (found.symm.trans present)
    obtain ⟨lt, -⟩ := List.getElem?_eq_some_iff.mp found
    exact ⟨t, run, List.getElem?_set_self lt⟩

end Sys2Proof.Machine

namespace Sys2Proof.Machine

/-! ### A stream begins with at most one frame (spec/30_encoding.md R52 to R54) -/

/-- The wire image of a byte is not begun by END. -/
theorem wireImage_append_ne_end_cons (x : Byte) (l u : List Byte) : wireImage x ++ l ≠ endByte :: u := by
  intro e
  cases control : isControl x with
  | true => simp [wireImage_of_control control, endByte, escapeByte] at e
  | false =>
    obtain ⟨-, notEnd, -⟩ := classify_other_iff.mp (isControl_eq_false_iff.mp control)
    rw [wireImage_of_other control] at e
    exact notEnd (List.cons.inj e).1

/-- A stream begins with the wire image of at most one byte. -/
theorem wireImage_append_inj {x y : Byte} {l r : List Byte} (e : wireImage x ++ l = wireImage y ++ r) :
    x = y ∧ l = r := by
  cases cx : isControl x <;> cases cy : isControl y <;>
    simp only [wireImage_of_control, wireImage_of_other, cx, cy, List.cons_append, List.nil_append,
      List.cons.injEq] at e
  · exact e
  · obtain ⟨rfl, -⟩ := e
    cases cx
  · obtain ⟨rfl, -⟩ := e
    cases cy
  · obtain ⟨-, same, rest⟩ := e
    exact ⟨by rw [← comp_comp x, same, comp_comp], rest⟩

theorem wireBody_append_end_inj {p q u v : List Byte}
    (e : wireBody p ++ endByte :: u = wireBody q ++ endByte :: v) : p = q ∧ u = v := by
  induction p generalizing q with
  | nil =>
    cases q with
    | nil => exact ⟨rfl, (List.cons.inj e).2⟩
    | cons y q =>
      rw [wireBody_cons, List.append_assoc] at e
      exact absurd e.symm (wireImage_append_ne_end_cons y _ u)
  | cons x p ih =>
    cases q with
    | nil =>
      rw [wireBody_cons, List.append_assoc] at e
      exact absurd e (wireImage_append_ne_end_cons x _ v)
    | cons y q =>
      rw [wireBody_cons, wireBody_cons, List.append_assoc, List.append_assoc] at e
      obtain ⟨rfl, rest⟩ := wireImage_append_inj e
      obtain ⟨rfl, same⟩ := ih rest
      exact ⟨rfl, same⟩

/-- Settles O22: after START, image by image, until END. -/
theorem framesAreUniquelyReadable : Obligations.FramesAreUniquelyReadable := fun p q u v e =>
  wireBody_append_end_inj (by simpa [frame] using e)

/-! ### What one request does to DEC, and the inbound bytes -/

section Stream

variable {inp : Input} {i : Instr} {b : Byte} {bs m : List Byte} {s t u : State}

theorem inboundByte_decoded (d : decode inp = .ok i) : inboundByte inp = carriedByte i := by simp [inboundByte, d]

theorem inboundByte_rejected {why : RefuseReason} (d : decode inp = .error why) : inboundByte inp = none := by
  simp [inboundByte, d]

/-- Everything a request can do to DEC: its byte is ingested, or DEC is reset or stays as it is. -/
theorem issue_dec_cases (h : issue inp s = .next t) :
    (∃ b, inboundByte inp = some b ∧ Ingested b s t) ∨
      (inboundByte inp = none ∧ (t = decReset s ∨ decView t = decView s)) := by
  obtain ⟨-, ⟨i, d, run⟩ | ⟨why, d, rfl⟩⟩ := issue_cases h
  · rw [inboundByte_decoded d]
    rcases dec_cases run with ⟨b, carried, ing⟩ | ⟨rfl, reset⟩ | ⟨carried, -, view⟩
    · exact .inl ⟨b, carried, ing⟩
    · exact .inr ⟨rfl, .inl reset⟩
    · exact .inr ⟨carried, .inr view⟩
  · exact .inr ⟨inboundByte_rejected d, .inr rfl⟩

theorem issue_keeps_cursorInv (h : issue inp s = .next t) (inv : CursorInv s) : CursorInv t := by
  obtain ⟨-, ⟨i, -, run⟩ | ⟨why, -, rfl⟩⟩ := issue_cases h
  · exact exec_keeps_cursorInv run inv
  · exact inv.of_view rfl rfl

theorem inboundBytes_concat_some {done : List Input} (h : inboundByte inp = some b) :
    inboundBytes (done ++ [inp]) = inboundBytes done ++ [b] := by simp [inboundBytes, h]

theorem inboundBytes_concat_none {done : List Input} (h : inboundByte inp = none) :
    inboundBytes (done ++ [inp]) = inboundBytes done := by simp [inboundBytes, h]

/-! ### The frame being assembled (spec/10_state.md R18 (c)) -/

/-- BUF[0, DEC_CURSOR) is the byte sequence `m`. -/
structure Holds (m : List Byte) (s : State) : Prop where
  length_eq : m.length = s.decCursor
  read : ∀ i < s.decCursor, readBuf s i = m[i]?

theorem holds_nil (zero : s.decCursor = 0) : Holds [] s where
  length_eq := zero.symm
  read i lt := absurd (zero ▸ lt) (Nat.not_lt_zero i)

theorem Holds.of_same (h : Holds m s) (cursor : t.decCursor = s.decCursor) (buf : t.buf = s.buf) : Holds m t where
  length_eq := h.length_eq.trans cursor.symm
  read := by
    rw [cursor]
    simpa only [readBuf, buf] using h.read

/-- A byte written at DEC_CURSOR comes after those that are held (R93, R98). -/
theorem Holds.push {v : Byte} (h : Holds m s) (cursor : t.decCursor = s.decCursor + 1)
    (buf : t.buf = s.buf.write s.decCursor v) : Holds (m ++ [v]) t where
  length_eq := by simp [h.length_eq, cursor]
  read i lt := by
    rw [readBuf, buf]
    by_cases last : i = s.decCursor
    · rw [last, Memory.read_write_same, ← h.length_eq, List.getElem?_concat_length]
    · have before : i < s.decCursor := by omega
      rw [Memory.read_write_of_ne _ _ last, List.getElem?_append_left (h.length_eq ▸ before)]
      exact h.read i before

/-- The inbound bytes `bs` end with the part of a frame that DEC has taken in, and BUF holds its payload. -/
structure Assembling (bs : List Byte) (s : State) : Prop where
  inMessage : s.decState = .insideMessage → ∃ pre m, bs = pre ++ 0x02 :: wireBody m ∧ Holds m s
  inEscape : s.decState = .insideMessageEscaping → ∃ pre m, bs = pre ++ 0x02 :: (wireBody m ++ [0x04]) ∧ Holds m s

/-- Nothing is being assembled while DEC waits. -/
theorem assembling_of_waiting (waiting : s.decState = .waitingForStart) : Assembling bs s where
  inMessage state := nomatch waiting.symm.trans state
  inEscape state := nomatch waiting.symm.trans state

theorem assembling_of_illegal (illegal : s.decState = .illegal) : Assembling bs s where
  inMessage state := nomatch illegal.symm.trans state
  inEscape state := nomatch illegal.symm.trans state

theorem Assembling.of_view (h : Assembling bs s) (view : decView t = decView s) : Assembling bs t := by
  obtain ⟨state, cursor, buf, -⟩ := decView_eq_iff.mp view
  refine ⟨fun e => ?_, fun e => ?_⟩
  · obtain ⟨pre, m, eq, holds⟩ := h.inMessage (state ▸ e)
    exact ⟨pre, m, eq, holds.of_same cursor buf⟩
  · obtain ⟨pre, m, eq, holds⟩ := h.inEscape (state ▸ e)
    exact ⟨pre, m, eq, holds.of_same cursor buf⟩

/-- The bytes of a payload with the one that the inbound byte `b` carries. -/
theorem Assembling.of_carries {v : Byte} (h : Assembling bs s) (carries : Carries s b v) :
    ∃ pre m, bs ++ [b] = pre ++ 0x02 :: wireBody (m ++ [v]) ∧ Holds m s := by
  cases carries with
  | plain inMessage ordinary =>
    obtain ⟨pre, m, rfl, holds⟩ := h.inMessage inMessage
    exact ⟨pre, m, by simp [wireImage_of_other (isControl_eq_false_iff.mpr ordinary)], holds⟩
  | escaped inEscape valid =>
    obtain ⟨pre, m, rfl, holds⟩ := h.inEscape inEscape
    have control : isControl (comp b) = true := valid
    exact ⟨pre, m, by simp [wireImage_of_control control, escapeByte], holds⟩

/-- One more inbound byte keeps the relation between the bytes and the state. -/
theorem Assembling.ingested (h : Assembling bs s) (ing : Ingested b s t) : Assembling (bs ++ [b]) t := by
  cases ing with
  | faults illegal => exact assembling_of_illegal illegal
  | starts _ start => exact { inMessage := fun _ => ⟨bs, [], by simp [start], holds_nil rfl⟩, inEscape := nofun }
  | ignores waiting => exact assembling_of_waiting waiting
  | delivers | overflows | rejects => exact assembling_of_waiting rfl
  | escapes inMessage escape =>
    obtain ⟨pre, m, rfl, holds⟩ := h.inMessage inMessage
    exact { inMessage := nofun, inEscape := fun _ => ⟨pre, m, by simp [escape], holds.of_same rfl rfl⟩ }
  | writes carries room =>
    obtain ⟨pre, m, eq, holds⟩ := h.of_carries carries
    exact { inMessage := fun _ => ⟨pre, _, eq, holds.push rfl rfl⟩, inEscape := nofun }

/-- DEC_RESET drops what was assembled (R85). -/
theorem assembling_decReset : Assembling bs (decReset s) := by
  by_cases illegal : s.decState = .illegal
  · rw [decReset_of_illegal illegal]
    exact assembling_of_illegal illegal
  · rw [decReset_of_legal illegal]
    exact assembling_of_waiting rfl

theorem Assembling.issue {done : List Input} (h : Assembling (inboundBytes done) s) (run : issue inp s = .next t) :
    Assembling (inboundBytes (done ++ [inp])) t := by
  rcases issue_dec_cases run with ⟨b, carried, ing⟩ | ⟨carried, rfl | view⟩
  · rw [inboundBytes_concat_some carried]
    exact h.ingested ing
  · rw [inboundBytes_concat_none carried]
    exact assembling_decReset
  · rw [inboundBytes_concat_none carried]
    exact h.of_view view

/-- Whatever the requests, from a decoder that waits. -/
theorem assembling_of_issueAll {reqs : List Input} {log : List (Input × Answer)}
    (waiting : s.decState = .waitingForStart) (run : issueAll reqs s = .next (log, t)) :
    Assembling (inboundBytes reqs) t :=
  issueAll_induction (I := fun done s => Assembling (inboundBytes done) s) Assembling.issue
    (assembling_of_waiting waiting) run

end Stream

/-- Settles O41: every request keeps the bounds of the cursor and the relation to the inbound bytes. -/
theorem bufferHoldsTheFrameBeingAssembled : Obligations.BufferHoldsTheFrameBeingAssembled := by
  intro reqs s t log waiting zero run
  have cursor : CursorInv t := issueAll_induction (I := fun _ s => CursorInv s)
    (fun inv h => issue_keeps_cursorInv h inv) (.of_cursor_zero zero) run
  have frame : Assembling (inboundBytes reqs) t := assembling_of_issueAll waiting run
  refine ⟨cursor.cursor_le, cursor.waiting_cursor, fun inMessage => ?inMessage, fun inEscape => ?inEscape⟩
  case inMessage =>
    obtain ⟨pre, m, eq, holds⟩ := frame.inMessage inMessage
    exact ⟨pre, m, eq, holds.length_eq, holds.read⟩
  case inEscape =>
    obtain ⟨pre, m, eq, holds⟩ := frame.inEscape inEscape
    exact ⟨pre, m, eq, holds.length_eq, holds.read⟩

/-! ### Deliveries (spec/42_decoder.md R103) -/

/-- A sequence with a last answer has a last request, which gave it. -/
theorem issueAll_last {reqs : List Input} {s t : State} {log : List (Input × Answer)} {a : Answer}
    (run : issueAll reqs s = .next (log, t)) (last : (answersOf log).getLast? = some a) :
    ∃ init inp u log', reqs = init ++ [inp] ∧ issueAll init s = .next (log', u) ∧ issue inp u = .next t ∧
      t.answer = a := by
  rcases List.eq_nil_or_concat' reqs with rfl | ⟨init, inp, rfl⟩
  · cases run
    simp [answersOf] at last
  · obtain ⟨u, la, lb, before, final, rfl⟩ := issueAll_append_inv run
    obtain ⟨w, l, h, rest, rfl⟩ := issueAll_cons_inv final
    cases rest
    exact ⟨init, inp, u, la, rfl, before, h, by simpa [answersOf] using last⟩

/-- The host reads the payload that END delivers (70_reset_and_hazards.md R125). -/
theorem hostMessage_ingestEnd {m : List Byte} {s : State} (h : Holds m s) :
    hostMessage (ingestEnd s) = m.map some := by
  apply List.ext_getElem?
  intro i
  by_cases lt : i < s.decCursor
  · have read : hostRead (ingestEnd s) i = m[i]? := (if_pos lt).trans (h.read i lt)
    have len : i < m.length := h.length_eq ▸ lt
    simp [hostMessage, ingestEnd, lt, len] at read ⊢
    exact read
  · have len : ¬ i < m.length := h.length_eq ▸ lt
    simp [hostMessage, ingestEnd, not_lt.mp lt, not_lt.mp len]

/-- Settles O42: the last request carries END, and DEC was assembling the frame that END completes. -/
theorem deliveredMessageIsTheLastFrame : Obligations.DeliveredMessageIsTheLastFrame := by
  intro reqs s t log len waiting run last
  obtain ⟨init, inp, u, log', rfl, before, final, ready⟩ := issueAll_last run last
  obtain ⟨-, ⟨i, decoded, exec⟩ | ⟨why, -, rfl⟩⟩ := issue_cases final
  · obtain ⟨carried, inMessage, rfl, rfl⟩ := delivery_inv exec ready
    obtain ⟨pre, m, eq, holds⟩ := (assembling_of_issueAll waiting before).inMessage inMessage
    have inbound : inboundByte inp = some 0x03 := (inboundByte_decoded decoded).trans carried
    refine ⟨pre, m, ?_, holds.length_eq, holds.read, hostMessage_ingestEnd (holds.of_same rfl rfl)⟩
    rw [inboundBytes_concat_some inbound, eq]
    simp [frame, startByte, endByte]
  · cases ready

/-! ### The delivered slice and the next byte (spec/70_reset_and_hazards.md R125) -/

/-- What requests leave as it was in `s`, by the bytes they carried to DEC: nothing is written by the first, and
without one DEC still waits and the window is open. -/
structure SliceKept (s : State) (done : List Input) (t : State) : Prop where
  silent : inboundBytes done = [] → t.decState = .waitingForStart ∧ t.window = s.window
  buf : (inboundBytes done).length ≤ 1 → t.buf = s.buf

theorem storedByte_of_waiting {s : State} (b : Byte) (waiting : s.decState = .waitingForStart) :
    storedByte b s = none := by simp [storedByte, waiting]

theorem SliceKept.issue {s t u : State} {done : List Input} {inp : Input} (h : SliceKept s done t)
    (run : issue inp t = .next u) : SliceKept s (done ++ [inp]) u := by
  rcases issue_dec_cases run with ⟨b, carried, ing⟩ | ⟨carried, change⟩
  · refine ⟨fun none_yet => ?silent, fun first => ?buf⟩ <;> rw [inboundBytes_concat_some carried] at *
    case silent => simp at none_yet
    case buf =>
      have none_before : inboundBytes done = [] := by simpa using first
      obtain ⟨waiting, -⟩ := h.silent none_before
      rw [ing.buf_of_not_storedByte (storedByte_of_waiting b waiting)]
      exact h.buf (by simp [none_before])
  · refine ⟨fun none_yet => ?silent', fun first => ?buf'⟩ <;> rw [inboundBytes_concat_none carried] at *
    case silent' =>
      obtain ⟨waiting, window⟩ := h.silent none_yet
      rcases change with rfl | view
      · rw [decReset_of_legal (by simp [waiting])]
        exact ⟨rfl, window⟩
      · obtain ⟨state, -, -, same⟩ := decView_eq_iff.mp view
        exact ⟨state.trans waiting, same.trans window⟩
    case buf' =>
      rcases change with rfl | view
      · exact (decReset_buf t).trans (h.buf first)
      · obtain ⟨-, -, same, -⟩ := decView_eq_iff.mp view
        exact same.trans (h.buf first)

/-- Settles O47: the host reads BUF through the window, and both are kept request by request. -/
theorem deliveredSliceOutlivesTheNextIngest : Obligations.DeliveredSliceOutlivesTheNextIngest := by
  intro reqs s t log waiting run
  have kept : SliceKept s reqs t := issueAll_induction (I := SliceKept s) SliceKept.issue
    { silent := fun _ => ⟨waiting, rfl⟩, buf := fun _ => rfl } run
  refine ⟨fun few a => by rw [readBuf, kept.buf few, readBuf], fun none_carried => ?silent⟩
  obtain ⟨-, window⟩ := kept.silent none_carried
  have buf : t.buf = s.buf := kept.buf (by simp [none_carried])
  have read : hostRead t = hostRead s := by
    funext i
    simp only [hostRead, readBuf, window, buf]
  rw [hostMessage, window, read, hostMessage]

end Sys2Proof.Machine

namespace Sys2Proof.Machine

/-! ### Feeding bytes, with the answers (spec/42_decoder.md R104) -/

/-- Bytes that are ingested one after the other lead from one state to another and give these answers. -/
inductive Feeds : List Byte → List Answer → State → State → Prop where
  | nil (s : State) : Feeds [] [] s s
  | cons {b : Byte} {bs : List Byte} {as : List Answer} {s u t : State} (no_fault : s.faulted = none)
      (ing : Ingested b s u) (rest : Feeds bs as u t) : Feeds (b :: bs) (u.answer :: as) s t

section Feeds

variable {b : Byte} {bs cs : List Byte} {as as' : List Answer} {s t u : State}

theorem Feeds.single (no_fault : s.faulted = none) (ing : Ingested b s t) : Feeds [b] [t.answer] s t :=
  .cons no_fault ing (.nil t)

theorem Feeds.append (h : Feeds bs as s t) (k : Feeds cs as' t u) : Feeds (bs ++ cs) (as ++ as') s u := by
  induction h with
  | nil => exact k
  | cons no_fault ing _ ih => exact .cons no_fault ing (ih k)

/-- Such bytes are what `feed` issues, with one answer for each. -/
theorem Feeds.issueAll_feed (h : Feeds bs as s t) :
    ∃ log, issueAll (feed bs) s = .next (log, t) ∧ answersOf log = as := by
  induction h with
  | nil s => exact ⟨[], rfl, rfl⟩
  | @cons b _ _ s _ _ no_fault ing _ ih =>
    obtain ⟨log, run, answers⟩ := ih
    have first : issue (encode (.decIngest b)) s = .next _ := ing.eq_ingest ▸ issue_feed b no_fault
    exact ⟨_, issueAll_cons first run, congrArg (_ :: ·) answers⟩

theorem Feeds.length_eq (h : Feeds bs as s t) : as.length = bs.length := by
  induction h with
  | nil => rfl
  | cons _ _ _ ih => exact congrArg (· + 1) ih

/-- Feeding leaves ENC as it was (10_state.md R32). -/
theorem Feeds.encView_eq (h : Feeds bs as s t) : encView t = encView s := by
  induction h with
  | nil => rfl
  | cons _ ing _ ih => exact ih.trans (ing.eq_ingest ▸ encView_ingest _ _)

theorem Ingested.params_eq (h : Ingested b s t) : t.params = s.params := by
  rw [← h.eq_ingest, ingest_frame]

theorem Feeds.params_eq (h : Feeds bs as s t) : t.params = s.params := by
  induction h with
  | nil => rfl
  | cons _ ing _ ih => exact ih.trans ing.params_eq

end Feeds

/-! ### A payload on its way into BUF -/

/-- DEC is in InsideMessage, has taken in the payload bytes `m`, and there is no fault. -/
structure Receiving (m : List Byte) (s : State) : Prop where
  state : s.decState = .insideMessage
  holds : Holds m s
  no_fault : s.faulted = none

/-- DEC waits for START, and there is no fault. -/
structure Waiting (s : State) : Prop where
  state : s.decState = .waitingForStart
  no_fault : s.faulted = none

section Receiving

variable {m p : List Byte} {x : Byte} {s : State}

/-- START begins a frame in every legal state (R88, R90, R95). -/
theorem feeds_start (no_fault : s.faulted = none) (legal : s.decState ≠ .illegal) :
    ∃ t, Feeds [startByte] [continued] s t ∧ Receiving [] t :=
  ⟨_, .single no_fault (.starts legal rfl), rfl, holds_nil rfl, no_fault⟩

/-- A control byte announces itself by ESCAPE (R92), and its complement carries it. -/
theorem Receiving.feeds_escape (h : Receiving m s) :
    ∃ t, Feeds [escapeByte] [continued] s t ∧ t.decState = .insideMessageEscaping ∧ Holds m t ∧
      t.faulted = none :=
  ⟨_, .single h.no_fault (.escapes h.state rfl), rfl, h.holds.of_same rfl rfl, h.no_fault⟩

/-- The wire image of a byte is perhaps an ESCAPE, and then a byte that carries it. -/
theorem Receiving.feeds_before_carried (h : Receiving m s) (x : Byte) :
    ∃ esc c t, wireImage x = esc ++ [c] ∧ Feeds esc (List.replicate esc.length continued) s t ∧ Carries t c x ∧
      Holds m t ∧ t.faulted = none := by
  cases control : isControl x with
  | false =>
    have carries : Carries s x x := .plain h.state (isControl_eq_false_iff.mp control)
    exact ⟨[], x, s, wireImage_of_other control, .nil s, carries, h.holds, h.no_fault⟩
  | true =>
    obtain ⟨t, feeds, state, holds, no_fault⟩ := h.feeds_escape
    have carries : Carries t (comp x) (comp (comp x)) := .escaped state (escValid_comp_of_isControl control)
    rw [comp_comp] at carries
    exact ⟨[escapeByte], comp x, t, wireImage_of_control control, feeds, carries, holds, no_fault⟩

/-- With room the wire image of a byte brings that byte into BUF. -/
theorem Receiving.feeds_wireImage (h : Receiving m s) (room : m.length < s.params.capacity) :
    ∃ t, Feeds (wireImage x) (List.replicate (wireImage x).length continued) s t ∧ Receiving (m ++ [x]) t := by
  obtain ⟨esc, c, u, image, escape, carries, holds, no_fault⟩ := h.feeds_before_carried x
  have fits : u.decCursor < u.params.capacity := by rwa [escape.params_eq, ← holds.length_eq]
  have written := escape.append (.single no_fault (.writes carries fits))
  rw [image, List.length_append, List.replicate_add]
  exact ⟨_, written, rfl, holds.push rfl rfl, no_fault⟩

/-- Into a full buffer the wire image of a byte gives BUFFER_TOO_SMALL at its last byte (R94, R99). -/
theorem Receiving.feeds_overflow (h : Receiving m s) (full : m.length = s.params.capacity) :
    ∃ t, Feeds (wireImage x) (List.replicate ((wireImage x).length - 1) continued ++ [bufferTooSmallAnswer]) s t ∧
      Waiting t := by
  obtain ⟨esc, c, u, image, escape, carries, holds, no_fault⟩ := h.feeds_before_carried x
  have at_end : u.params.capacity ≤ u.decCursor := by rw [escape.params_eq, ← holds.length_eq, full]
  have dropped := escape.append (.single no_fault (.overflows carries at_end))
  rw [image, List.length_append, List.length_singleton, Nat.add_sub_cancel]
  exact ⟨_, dropped, rfl, no_fault⟩

/-- The body of a payload that fits goes into BUF, byte after byte. -/
theorem Receiving.feeds_wireBody (h : Receiving m s) (fits : m.length + p.length ≤ s.params.capacity) :
    ∃ t, Feeds (wireBody p) (List.replicate (wireBody p).length continued) s t ∧ Receiving (m ++ p) t := by
  induction p generalizing m s with
  | nil => exact ⟨s, .nil s, by simpa using h⟩
  | cons x p ih =>
    rw [List.length_cons] at fits
    obtain ⟨u, image, receiving⟩ := h.feeds_wireImage (x := x) (by omega)
    obtain ⟨t, body, received⟩ := ih receiving (by rw [image.params_eq, List.length_append, List.length_singleton]; omega)
    rw [wireBody_cons, List.length_append, List.replicate_add]
    exact ⟨t, image.append body, by simpa using received⟩

/-- START and the body of a payload that fits. -/
theorem feeds_frame_start (no_fault : s.faulted = none) (legal : s.decState ≠ .illegal)
    (fits : p.length ≤ s.params.capacity) :
    ∃ t, Feeds (startByte :: wireBody p) (List.replicate ((wireBody p).length + 1) continued) s t ∧
      Receiving p t := by
  obtain ⟨u, start, receiving⟩ := feeds_start no_fault legal
  obtain ⟨t, body, received⟩ := receiving.feeds_wireBody (p := p) (by simpa [start.params_eq] using fits)
  exact ⟨t, start.append body, received⟩

/-- The frame of a payload that fits: CONTINUE up to END, which delivers it. -/
theorem feeds_frame (no_fault : s.faulted = none) (legal : s.decState ≠ .illegal)
    (fits : p.length ≤ s.params.capacity) :
    ∃ t, Feeds (frame p) (List.replicate (p.length + controlCount p + 1) continued ++ [delivered p.length]) s t ∧
      Waiting t ∧ (∀ i < p.length, readBuf t i = p[i]?) ∧ hostMessage t = p.map some := by
  obtain ⟨u, body, received⟩ := feeds_frame_start no_fault legal fits
  have holds := received.holds
  have finish := Feeds.single received.no_fault (.delivers received.state (b := endByte) rfl)
  rw [← wireBody_length, holds.length_eq]
  exact ⟨_, body.append finish, ⟨rfl, received.no_fault⟩, holds.read, hostMessage_ingestEnd (holds.of_same rfl rfl)⟩

/-- Bytes without START are noise to a decoder that waits (R89). -/
theorem Waiting.feeds_noise {bs : List Byte} (h : Waiting s) (noise : 0x02 ∉ bs) :
    ∃ t, Feeds bs (List.replicate bs.length continued) s t ∧ Waiting t := by
  induction bs generalizing s with
  | nil => exact ⟨s, .nil s, h⟩
  | cons b bs ih =>
    obtain ⟨notStart, rest⟩ : 0x02 ≠ b ∧ 0x02 ∉ bs := by simpa using noise
    obtain ⟨t, feeds, waiting⟩ := ih (s := ingestNoise (closeWindow s)) ⟨h.state, h.no_fault⟩ rest
    exact ⟨t, .cons h.no_fault (.ignores h.state notStart.symm) feeds, waiting⟩

end Receiving

/-- Settles O43, by the feeds of the frame. -/
theorem roundTripDeliversThePayload : Obligations.RoundTripDeliversThePayload := by
  intro p s no_fault legal fits
  obtain ⟨t, feeds, waiting, read, message⟩ := feeds_frame no_fault legal fits
  obtain ⟨log, run, answers⟩ := feeds.issueAll_feed
  exact ⟨log, t, run, answers, waiting.state, read, message, feeds.encView_eq⟩

/-- Settles O45: the noise changes nothing that the first frame needs, nor the first frame what the second needs. -/
theorem noiseThenTwoFramesDeliversBoth : Obligations.NoiseThenTwoFramesDeliversBoth := by
  intro noise p q s no_fault waiting notStart fits_p fits_q
  obtain ⟨r, ignored, quiet⟩ := Waiting.feeds_noise ⟨waiting, no_fault⟩ notStart
  obtain ⟨u, first, ready, -, message_p⟩ :=
    feeds_frame quiet.no_fault (by simp [quiet.state]) (ignored.params_eq ▸ fits_p)
  have both := ignored.append first
  obtain ⟨t, second, -, -, message_q⟩ :=
    feeds_frame ready.no_fault (by simp [ready.state]) (both.params_eq ▸ fits_q)
  obtain ⟨logA, runA, answersA⟩ := both.issueAll_feed
  obtain ⟨logB, runB, answersB⟩ := second.issueAll_feed
  refine ⟨logA, u, logB, t, runA, ?_, message_p, runB, answersB, message_q⟩
  rw [answersA, ← List.append_assoc, ← List.replicate_add]
  simp only [Nat.add_assoc]

/-- The wire body of a payload with one byte singled out. -/
theorem wireBody_split {p : List Byte} {n : Nat} (lt : n < p.length) :
    wireBody p = wireBody (p.take n) ++ wireImage p[n] ++ wireBody (p.drop (n + 1)) := by
  calc
    wireBody p = wireBody (p.take n ++ p[n] :: p.drop (n + 1)) := by
      rw [← List.drop_eq_getElem_cons lt, List.take_append_drop]
    _ = wireBody (p.take n) ++ wireImage p[n] ++ wireBody (p.drop (n + 1)) := by
      rw [wireBody_append, wireBody_cons, List.append_assoc]

theorem wireImage_length_pos (x : Byte) : 0 < (wireImage x).length := by
  unfold wireImage
  split <;> simp

/-- How many bytes of the frame stand before the last byte of the wire image of `p[n]`. -/
theorem wireBody_take_succ_length {p : List Byte} {n : Nat} (lt : n < p.length) :
    (wireBody (p.take n)).length + 1 + ((wireImage p[n]).length - 1) = (wireBody (p.take (n + 1))).length := by
  have pos := wireImage_length_pos p[n]
  rw [List.take_succ_eq_append_getElem lt, wireBody_append, wireBody_cons, wireBody_nil, List.append_nil,
    List.length_append]
  omega

/-- What follows the byte that overflowed holds no START. -/
theorem start_not_mem_rest (p : List Byte) : 0x02 ∉ wireBody p ++ [endByte] := by
  simp only [List.mem_append, List.mem_singleton, not_or]
  exact ⟨fun mem => (ne_delimiter_of_mem_wireBody mem).1 rfl, by decide⟩

/-- The frame of a payload that does not fit: the first CAPACITY bytes are taken in, the next one overflows, and what
follows is noise. -/
theorem feeds_oversized_frame {p : List Byte} {s : State} (no_fault : s.faulted = none)
    (legal : s.decState ≠ .illegal) (long : s.params.capacity < p.length) :
    ∃ t n, Feeds (frame p)
      (List.replicate (wireBody (p.take (s.params.capacity + 1))).length continued ++
        bufferTooSmallAnswer :: List.replicate n continued) s t ∧ Waiting t := by
  have taken : (p.take s.params.capacity).length = s.params.capacity := by simp [long.le]
  obtain ⟨u, before, receiving⟩ := feeds_frame_start no_fault legal taken.le
  obtain ⟨v, overflow, dropped⟩ := receiving.feeds_overflow (x := p[s.params.capacity]) (before.params_eq ▸ taken)
  obtain ⟨t, noise, waiting⟩ := dropped.feeds_noise (start_not_mem_rest (p.drop (s.params.capacity + 1)))
  have feeds := (before.append overflow).append noise
  have stream : (startByte :: wireBody (p.take s.params.capacity) ++ wireImage p[s.params.capacity]) ++
      (wireBody (p.drop (s.params.capacity + 1)) ++ [endByte]) = frame p := by
    simp [frame, wireBody_split long]
  rw [stream, ← List.append_assoc, ← List.replicate_add, wireBody_take_succ_length long, List.append_assoc] at feeds
  exact ⟨t, _, feeds, waiting⟩

/-- Settles O44, by the feeds of the frame. -/
theorem oversizedFrameIsDroppedOnce : Obligations.OversizedFrameIsDroppedOnce := by
  intro p s no_fault legal long
  obtain ⟨t, n, feeds, waiting⟩ := feeds_oversized_frame no_fault legal long
  obtain ⟨log, run, answers⟩ := feeds.issueAll_feed
  exact ⟨log, t, n, run, answers, answers ▸ feeds.length_eq, waiting.state⟩

end Sys2Proof.Machine

namespace Sys2Proof.Machine

/-! ### Leaving out the other sub-block's requests (spec/20_memory.md R47) -/

/-- A simulation over request sequences: the requests that are not chosen keep the relation, and each chosen one can
be issued in the related state, with the same answer. -/
theorem issueAll_filter {chosen : Input → Bool} {Same : State → State → Prop}
    (keeps : ∀ {inp s t s'}, chosen inp = false → issue inp s = .next t → Same s s' → Same t s')
    (runs : ∀ {inp s t s'}, chosen inp = true → issue inp s = .next t → Same s s' →
      ∃ t', issue inp s' = .next t' ∧ t'.answer = t.answer ∧ Same t t')
    {reqs : List Input} {s t s' : State} {log : List (Input × Answer)} (same : Same s s')
    (run : issueAll reqs s = .next (log, t)) :
    ∃ t', issueAll (reqs.filter chosen) s' = .next (log.filter (fun e => chosen e.1), t') ∧ Same t t' := by
  induction reqs generalizing s s' log with
  | nil =>
    cases run
    exact ⟨s', rfl, same⟩
  | cons inp reqs ih =>
    obtain ⟨u, log', first, rest, rfl⟩ := issueAll_cons_inv run
    cases mine : chosen inp with
    | false =>
      obtain ⟨t', run', same'⟩ := ih (keeps mine first same) rest
      exact ⟨t', by simpa [mine] using run', same'⟩
    | true =>
      obtain ⟨u', first', answer, same'⟩ := runs mine first same
      obtain ⟨t', run', final⟩ := ih same' rest
      exact ⟨t', by simpa [mine, answer] using issueAll_cons first' run', final⟩

/-- Two states with the same parameters and the same `view`; the second has no fault that the first has not. -/
structure SameBlock {α : Type} (view : State → α) (s s' : State) : Prop where
  view_eq : view s' = view s
  params_eq : s'.params = s.params
  no_fault : s.faulted = none → s'.faulted = none

theorem SameBlock.refl {α : Type} (view : State → α) (s : State) : SameBlock view s s := ⟨rfl, rfl, id⟩

section SameBlock

variable {α : Type} {view : State → α} {inp : Input} {i : Instr} {s t s' : State}

/-- A request that leaves the view is not missed. -/
theorem SameBlock.skip (same : SameBlock view s s') (run : issue inp s = .next t) (kept : view t = view s) :
    SameBlock view t s' where
  view_eq := same.view_eq.trans kept.symm
  params_eq := same.params_eq.trans (issue_params run).symm
  no_fault _ := same.no_fault (issue_cases run).1

/-- What one request of the block does in the two states. -/
structure SameRun (view : State → α) (t t' : State) : Prop where
  answer_eq : t'.answer = t.answer
  view_eq : view t' = view t
  no_fault : t.faulted = none → t'.faulted = none

/-- A request decodes to the same instruction in both states. -/
theorem SameBlock.issue (same : SameBlock view s s') (decoded : decode inp = .ok i) (run : issue inp s = .next t)
    (runs : ∀ t', exec i s = .next t → exec i s' = .next t' → s.faulted = none → SameRun view t t') :
    ∃ t', issue inp s' = .next t' ∧ t'.answer = t.answer ∧ SameBlock view t t' := by
  have no_fault : s.faulted = none := (issue_cases run).1
  rw [issue_decoded no_fault decoded] at run
  obtain ⟨t', run'⟩ := exec_next i s'
  have both := runs t' run run' no_fault
  refine ⟨t', (issue_decoded (same.no_fault no_fault) decoded).trans run', both.answer_eq, both.view_eq, ?_,
    both.no_fault⟩
  rw [exec_params run', exec_params run, same.params_eq]

end SameBlock

/-! ### The requests to DEC in every interleaving -/

/-- The state `r` with DEC and the parameters of `s`. -/
def graftDec (s r : State) : State :=
  { r with
    params := s.params, decState := s.decState, decCursor := s.decCursor, buf := s.buf, window := s.window }

section Dec

variable {i : Instr} {b v : Byte} {s r t u : State}

theorem SameBlock.eq_graftDec (same : SameBlock decView s r) : r = graftDec s r := by
  obtain ⟨state, cursor, buf, window⟩ := decView_eq_iff.mp same.view_eq
  rw [graftDec, ← state, ← cursor, ← buf, ← window, ← same.params_eq]

theorem Carries.graftDec (h : Carries s b v) (r : State) : Carries (graftDec s r) b v := by
  cases h with
  | plain inMessage ordinary => exact .plain inMessage ordinary
  | escaped inEscape valid => exact .escaped inEscape valid

theorem sameRun_of_ingested (h : Ingested b r u) (answer : u.answer = t.answer) (view : decView u = decView t)
    (no_fault : t.faulted = none → u.faulted = none) : SameRun decView t (ingest b r) :=
  h.eq_ingest ▸ ⟨answer, view, no_fault⟩

/-- A byte is ingested by DEC_STATE, DEC_CURSOR and the parameters, and the cell's effect is on DEC alone. -/
theorem sameRun_ingest (no_fault : r.faulted = none) : SameRun decView (ingest b s) (ingest b (graftDec s r)) := by
  have ing := ingested b s
  generalize ingest b s = t at ing
  cases ing with
  | faults illegal => exact sameRun_of_ingested (.faults illegal) rfl rfl nofun
  | starts legal start => exact sameRun_of_ingested (.starts legal start) rfl rfl fun _ => no_fault
  | ignores waiting notStart => exact sameRun_of_ingested (.ignores waiting notStart) rfl rfl fun _ => no_fault
  | delivers inMessage finish => exact sameRun_of_ingested (.delivers inMessage finish) rfl rfl fun _ => no_fault
  | escapes inMessage escape => exact sameRun_of_ingested (.escapes inMessage escape) rfl rfl fun _ => no_fault
  | writes carries room => exact sameRun_of_ingested (.writes (carries.graftDec r) room) rfl rfl fun _ => no_fault
  | overflows carries full =>
    exact sameRun_of_ingested (.overflows (carries.graftDec r) full) rfl rfl fun _ => no_fault
  | rejects inEscape notStart invalid =>
    exact sameRun_of_ingested (.rejects inEscape notStart invalid) rfl rfl fun _ => no_fault

theorem sameRun_decEoi (no_fault : r.faulted = none) : SameRun decView (decEoi s) (decEoi (graftDec s r)) := by
  by_cases illegal : s.decState = .illegal
  · rw [decEoi_of_illegal illegal, decEoi_of_illegal (s := graftDec s r) illegal]
    exact ⟨rfl, rfl, nofun⟩
  · rw [decEoi_of_legal illegal, decEoi_of_legal (s := graftDec s r) illegal]
    exact ⟨rfl, rfl, fun _ => no_fault⟩

theorem sameRun_decReset (no_fault : r.faulted = none) :
    SameRun decView (decReset s) (decReset (graftDec s r)) := by
  by_cases illegal : s.decState = .illegal
  · rw [decReset_of_illegal illegal, decReset_of_illegal (s := graftDec s r) illegal]
    exact ⟨rfl, rfl, nofun⟩
  · rw [decReset_of_legal illegal, decReset_of_legal (s := graftDec s r) illegal]
    exact ⟨rfl, rfl, fun _ => no_fault⟩

theorem sameRun_exec_dec (dec : isDecInstr i = true) (no_fault : r.faulted = none) (h : exec i s = .next t)
    (k : exec i (graftDec s r) = .next u) : SameRun decView t u := by
  rcases isDecInstr_cases dec with ⟨b, carried⟩ | rfl | rfl
  · rw [exec_of_carriedByte _ carried] at h k
    cases h
    cases k
    exact sameRun_ingest no_fault
  · cases h
    cases k
    exact sameRun_decEoi no_fault
  · cases h
    cases k
    exact sameRun_decReset no_fault

theorem isDecInput_cases {inp : Input} (dec : isDecInput inp = true) :
    ∃ i, decode inp = .ok i ∧ isDecInstr i = true := by
  unfold isDecInput at dec
  cases decoded : decode inp with
  | ok i => exact ⟨i, rfl, by simpa [decoded] using dec⟩
  | error why => simp [decoded] at dec

/-- What is no request to DEC leaves DEC as it was (10_state.md R32). -/
theorem issue_keeps_decView {inp : Input} (notDec : isDecInput inp = false) (run : issue inp s = .next t) :
    decView t = decView s := by
  obtain ⟨-, ⟨i, decoded, h⟩ | ⟨why, -, rfl⟩⟩ := issue_cases run
  · have notDecInstr : isDecInstr i = false := by simpa [isDecInput, decoded] using notDec
    rcases dec_cases h with ⟨b, carried, -⟩ | ⟨rfl, -⟩ | ⟨-, -, view⟩
    · cases notDecInstr.symm.trans (isDecInstr_of_carriedByte carried).1
    · cases notDecInstr
    · exact view
  · rfl

end Dec

/-! ### The requests to ENC in every interleaving -/

/-- The state `r` with ENC and the parameters of `s`. -/
def graftEnc (s r : State) : State :=
  { r with
    params := s.params, encPhase := s.encPhase, encCursor := s.encCursor, encLen := s.encLen, encPend := s.encPend,
    pay := s.pay }

section Enc

variable {i : Instr} {s r t u : State}

theorem SameBlock.eq_graftEnc (same : SameBlock encView s r) : r = graftEnc s r := by
  obtain ⟨phase, cursor, len, pend, pay⟩ := encView_eq_iff.mp same.view_eq
  rw [graftEnc, ← phase, ← cursor, ← len, ← pend, ← pay, ← same.params_eq]

theorem sameRun_encStart (p : List Byte) (no_fault : r.faulted = none) :
    SameRun encView (encStart p s) (encStart p (graftEnc s r)) := by
  cases fits : payloadFits p s with
  | true =>
    rw [encStart_of_fits fits, encStart_of_fits (s := graftEnc s r) fits]
    exact ⟨rfl, rfl, fun _ => no_fault⟩
  | false =>
    rw [encStart_of_too_long fits, encStart_of_too_long (s := graftEnc s r) fits]
    exact ⟨rfl, rfl, fun _ => no_fault⟩

/-- A pull goes by the registers of ENC, and its effect is on ENC alone. -/
theorem sameRun_encPull (no_fault : r.faulted = none) :
    SameRun encView (encPull s) (encPull (graftEnc s r)) := by
  rcases encPull_cases s with ⟨phase, e⟩ | ⟨phase, at_end, e⟩ | ⟨phase, lt, b, read, ⟨control, e⟩ | ⟨ordinary, e⟩⟩ |
    ⟨phase, not_at_end, no_byte, e⟩ | ⟨phase, e⟩ | ⟨phase, e⟩ <;> rw [e]
  · rw [encPull_begin (s := graftEnc s r) phase]
    exact ⟨rfl, rfl, fun _ => no_fault⟩
  · rw [encPull_end (s := graftEnc s r) phase at_end]
    exact ⟨rfl, rfl, fun _ => no_fault⟩
  · rw [encPull_control (s := graftEnc s r) phase lt read control]
    exact ⟨rfl, rfl, fun _ => no_fault⟩
  · rw [encPull_ordinary (s := graftEnc s r) phase lt read ordinary]
    exact ⟨rfl, rfl, fun _ => no_fault⟩
  · have past : PullsPastPayload (graftEnc s r) := ⟨phase, not_at_end, no_byte⟩
    rw [past.encPull_eq]
    exact ⟨rfl, rfl, nofun⟩
  · rw [encPull_escaped (s := graftEnc s r) phase]
    exact ⟨rfl, rfl, fun _ => no_fault⟩
  · rw [encPull_done (s := graftEnc s r) phase]
    exact ⟨rfl, rfl, fun _ => no_fault⟩

theorem sameRun_exec_enc (enc : isEncInstr i = true) (no_fault : r.faulted = none) (h : exec i s = .next t)
    (k : exec i (graftEnc s r) = .next u) : SameRun encView t u := by
  rcases enc_cases h with ⟨p, rfl, rfl⟩ | ⟨rfl, rfl⟩ | ⟨notEnc, -⟩
  · cases k
    exact sameRun_encStart p no_fault
  · cases k
    exact sameRun_encPull no_fault
  · cases notEnc.symm.trans enc

theorem isEncInput_cases {inp : Input} (enc : isEncInput inp = true) :
    ∃ i, decode inp = .ok i ∧ isEncInstr i = true := by
  unfold isEncInput at enc
  cases decoded : decode inp with
  | ok i => exact ⟨i, rfl, by simpa [decoded] using enc⟩
  | error why => simp [decoded] at enc

/-- What is no request to ENC leaves ENC as it was (10_state.md R32). -/
theorem issue_keeps_encView {inp : Input} (notEnc : isEncInput inp = false) (run : issue inp s = .next t) :
    encView t = encView s := by
  obtain ⟨-, ⟨i, decoded, h⟩ | ⟨why, -, rfl⟩⟩ := issue_cases run
  · have notEncInstr : isEncInstr i = false := by simpa [isEncInput, decoded] using notEnc
    rcases enc_cases h with ⟨p, rfl, -⟩ | ⟨rfl, -⟩ | ⟨-, view⟩
    · cases notEncInstr
    · cases notEncInstr
    · exact view
  · rfl

end Enc

/-- Settles O48: the simulation once for each block; each request of a block runs alike in a state that differs only
outside that block. -/
theorem encoderAndDecoderDoNotInterfere : Obligations.EncoderAndDecoderDoNotInterfere := by
  refine fun reqs s t log run => ⟨?dec, ?enc⟩
  case dec =>
    obtain ⟨t', alone, same⟩ := issueAll_filter (chosen := isDecInput) (Same := SameBlock decView)
      (fun notDec h same => same.skip h (issue_keeps_decView notDec h))
      (fun dec h same => by
        obtain ⟨i, decoded, decInstr⟩ := isDecInput_cases dec
        refine same.issue decoded h fun t' run run' no_fault => ?_
        exact sameRun_exec_dec decInstr (same.no_fault no_fault) run (same.eq_graftDec ▸ run'))
      (.refl decView s) run
    exact ⟨t', alone, same.view_eq⟩
  case enc =>
    obtain ⟨t', alone, same⟩ := issueAll_filter (chosen := isEncInput) (Same := SameBlock encView)
      (fun notEnc h same => same.skip h (issue_keeps_encView notEnc h))
      (fun enc h same => by
        obtain ⟨i, decoded, encInstr⟩ := isEncInput_cases enc
        refine same.issue decoded h fun t' run run' no_fault => ?_
        exact sameRun_exec_enc encInstr (same.no_fault no_fault) run (same.eq_graftEnc ▸ run'))
      (.refl encView s) run
    exact ⟨t', alone, same.view_eq⟩

end Sys2Proof.Machine

namespace Sys2Proof.Machine

/-! ### Assembly (spec/30_encoding.md R65; the accepted spelling is log 23) -/

/-- A request word as the sum of its fields in place. -/
theorem packReq_eq_or (op : BitVec 3) (d : Byte) : packReq op d = (op.zeroExtend 11 <<< 8) ||| d.zeroExtend 11 := by
  have lt : op.toNat <<< 8 < 2048 := by
    rw [Nat.shiftLeft_eq]
    omega
  have op_lt : op.toNat < 2048 := by omega
  have d_lt : d.toNat < 2048 := by omega
  apply BitVec.eq_of_toNat_eq
  rw [packReq, BitVec.toNat_append]
  simp [Nat.mod_eq_of_lt, lt, op_lt, d_lt]

theorem hexValue_hexDigit {n : Nat} (h : n < 16) : hexValue (hexDigit n) = some n := by
  revert h
  revert n
  decide

/-- The two digits of a byte stand for it. -/
theorem hexByte_digits (b : Byte) : hexByte (hexDigit (b.toNat / 16)) (hexDigit (b.toNat % 16)) = some b := by
  have lt := b.isLt
  rw [hexByte, hexValue_hexDigit (by omega), hexValue_hexDigit (by omega)]
  simp only [Nat.div_add_mod, BitVec.ofNat_toNat, BitVec.setWidth_eq]

theorem parseByte_byteText (b : Byte) : parseByte (byteText b) = some b := hexByte_digits b

theorem parseTail_payloadTail (p : List Byte) : parseTail (payloadTail p) = some p := by
  induction p with
  | nil => rfl
  | cons b p ih => simp [payloadTail, byteText, parseTail, hexByte_digits, ih]

theorem parsePayload_payloadText (p : List Byte) : parsePayload (payloadText p) = some p := by
  cases p with
  | nil => rfl
  | cons b p => simp [payloadText, byteText, parsePayload, hexByte_digits, parseTail_payloadTail]

theorem parseBare_text (a : Asm) : parseBare a.text = some a := by
  cases a with
  | ingest b => exact congrArg (Option.map Asm.ingest) (parseByte_byteText b)
  | classify b => exact congrArg (Option.map Asm.classify) (parseByte_byteText b)
  | estart p => exact congrArg (Option.map Asm.estart) (parsePayload_payloadText p)
  | eoi | dreset | pull => rfl

/-! #### The text of a line is not stripped -/

/-- A text without a comment that begins and ends with no blank is left as it is. -/
theorem stripLine_eq_self {cs : List Char} (noComment : ';' ∉ cs) (first : cs.head? ≠ some ' ')
    (last : cs.getLast? ≠ some ' ') : stripLine cs = cs := by
  have whole : cs.takeWhile (· != ';') = cs :=
    List.takeWhile_eq_self_iff.mpr fun c mem => bne_iff_ne.mpr fun e => noComment (e ▸ mem)
  have keep {l : List Char} (h : l.head? ≠ some ' ') : l.dropWhile (· == ' ') = l := by
    cases l with
    | nil => rfl
    | cons c l => simpa using h
  have reversed : cs.reverse.head? ≠ some ' ' := by rwa [List.head?_reverse]
  rw [stripLine, whole, keep first, keep reversed, List.reverse_reverse]

/-- A hexadecimal digit begins no comment and is no blank. -/
theorem hexDigit_ne {n : Nat} (h : n < 16) : ';' ≠ hexDigit n ∧ ' ' ≠ hexDigit n := by
  revert h
  revert n
  decide

theorem digits_lt (b : Byte) : b.toNat / 16 < 16 ∧ b.toNat % 16 < 16 := by
  have lt := b.isLt
  omega

theorem comment_not_mem_byteText (b : Byte) : ';' ∉ byteText b := by
  obtain ⟨high, low⟩ := digits_lt b
  simp [byteText, hexDigit_ne high, hexDigit_ne low]

theorem getLast?_byteText (b : Byte) : (byteText b).getLast? ≠ some ' ' := by
  simpa [byteText] using (hexDigit_ne (digits_lt b).2).2.symm

theorem comment_not_mem_payloadTail (p : List Byte) : ';' ∉ payloadTail p := by
  induction p with
  | nil => decide
  | cons b p ih => simp [payloadTail, comment_not_mem_byteText, ih]

theorem comment_not_mem_payloadText (p : List Byte) : ';' ∉ payloadText p := by
  cases p with
  | nil => decide
  | cons b p => simp [payloadText, comment_not_mem_byteText, comment_not_mem_payloadTail]

theorem payloadTail_ends (p : List Byte) : ∃ cs, payloadTail p = cs ++ [']'] := by
  induction p with
  | nil => exact ⟨[], rfl⟩
  | cons b p ih =>
    obtain ⟨cs, e⟩ := ih
    exact ⟨',' :: ' ' :: (byteText b ++ cs), by simp [payloadTail, e]⟩

theorem payloadText_ends (p : List Byte) : ∃ cs, payloadText p = cs ++ [']'] := by
  cases p with
  | nil => exact ⟨['['], rfl⟩
  | cons b p =>
    obtain ⟨cs, e⟩ := payloadTail_ends p
    exact ⟨'[' :: (byteText b ++ cs), by simp [payloadText, e]⟩

theorem stripLine_text (a : Asm) : stripLine a.text = a.text := by
  cases a with
  | ingest b | classify b =>
    refine stripLine_eq_self (by simp [Asm.text, comment_not_mem_byteText]) (by simp [Asm.text]) ?_
    rw [Asm.text, List.getLast?_append_of_ne_nil _ (by simp [byteText])]
    exact getLast?_byteText b
  | estart p =>
    refine stripLine_eq_self (by simp [Asm.text, comment_not_mem_payloadText]) (by simp [Asm.text]) ?_
    obtain ⟨cs, e⟩ := payloadText_ends p
    rw [Asm.text, e, ← List.append_assoc, List.getLast?_concat]
    decide
  | eoi | dreset | pull => rfl

/-- Settles O60: the words by their fields; a line is not stripped, and its mnemonic and operand are read back. -/
theorem assemblyLinesStandForTheirWords : Obligations.AssemblyLinesStandForTheirWords := by
  refine ⟨fun b => ?ingest, rfl, rfl, fun _ => rfl, rfl, fun b => ?classify, fun a => ?parse⟩
  case ingest => exact congrArg (Input.request · []) (packReq_eq_or 0b000 b)
  case classify => exact congrArg (Input.request · []) (packReq_eq_or 0b110 b)
  case parse => rw [Asm.parse, stripLine_text, parseBare_text]

end Sys2Proof.Machine
